-- ==== Sys2Proof/Word.lean ====
section
/-! DEFINITION. The one data width of the block: every operand, data and command word is 32 bits
(00_scope.md R6, R8, R9). -/

namespace Sys2Proof

/-- An unsigned 32-bit word (00_scope.md R9). `+`, `-` wrap modulo 2^32 and `^^^` is exclusive-or (R10). -/
abbrev Word := BitVec 32

end Sys2Proof
end

