-- ==== Sys2Proof/Config.lean ====
section
/-! DEFINITION. The fixed parameters of the block (00_scope.md R6, 42_round_schedule.md R128). None is left to an
implementation, and the cipher has no undefined result (60_exceptions.md R160), so there is no free value. -/

namespace Sys2Proof.Config

/-- `ROUNDS`: the schedule runs steps 0 to 9 (00_scope.md R6, R3). -/
def rounds : Nat := 10

end Sys2Proof.Config
end

