-- ==== Sys2Proof/Syntax.lean ====
section
/-! DEFINITION. The commands of the block: one constructor per row of spec/opcode_table.json (30_encoding.md R67). -/

namespace Sys2Proof

/-- The seven operand registers a SEL field can name (10_state.md R20 to R22, 30_encoding.md R65). -/
inductive OpReg where
  | x | y | c | k0 | k1 | k2 | k3
  deriving DecidableEq, Repr

/-- A command with its operands (30_encoding.md R67, R71).
`step` keeps the four bits of the A field, so that a round index the spec calls illegal can be written down
(30_encoding.md R64); `WellFormed` checks it and executing such a term raises ILLEGAL_COMMAND. -/
inductive Instr where
  /-- `LD sel`, with the `data_in` word that comes with the command (43_host_transfer.md R140). -/
  | ld (sel : OpReg) (dataIn : Word)
  /-- `RD sel` (43_host_transfer.md R141). -/
  | rd (sel : OpReg)
  /-- `BOXF` (40_mixing_box.md R87). -/
  | boxf
  /-- `BOXI` (40_mixing_box.md R88). -/
  | boxi
  /-- `ROUNDF step` (41_round_function.md R107). -/
  | roundf (step : BitVec 4)
  /-- `ROUNDI step` (41_round_function.md R108). -/
  | roundi (step : BitVec 4)
  /-- `WHITEN` (41_round_function.md R109). -/
  | whiten
  /-- `ENC` (42_round_schedule.md R124). -/
  | enc
  /-- `DEC` (42_round_schedule.md R125). -/
  | dec
  deriving DecidableEq, Repr

end Sys2Proof
end

