-- ==== Sys2Proof/WellFormed.lean ====
section
/-! DEFINITION. Which instruction terms a legal command word can stand for. -/

namespace Sys2Proof

/-- A round index is legal only in 0..9, the range of the schedule's loop (30_encoding.md R64). -/
def stepInRange (step : BitVec 4) : Bool := decide (step.toNat < Config.rounds)

/-- The one check an instruction term needs: the round index of ROUNDF and ROUNDI. A register operand is legal by its
type, and the other commands take no operand. -/
def Instr.wf : Instr → Bool
  | .ld _ _ => true
  | .rd _ => true
  | .boxf => true
  | .boxi => true
  | .roundf step => stepInRange step
  | .roundi step => stepInRange step
  | .whiten => true
  | .enc => true
  | .dec => true

end Sys2Proof
end

