-- ==== Sys2Proof/Decode.lean ====
section
/-! DEFINITION. Command words: their fields, the legality predicate, the decoder, and the encoder
(30_encoding.md R60 to R70). -/

namespace Sys2Proof

/-! ## Fields (30_encoding.md R61) -/

/-- `OP = cmd[7:0]`. -/
def opField (cmd : Word) : BitVec 8 := cmd.extractLsb' 0 8

/-- `A = cmd[11:8]`: SEL, STEP, or zero. -/
def argField (cmd : Word) : BitVec 4 := cmd.extractLsb' 8 4

/-- `RSV = cmd[31:12]`: reserved, must be zero. -/
def rsvField (cmd : Word) : BitVec 20 := cmd.extractLsb' 12 20

/-! ## Legality (30_encoding.md R69) -/

/-- `Legal(cmd)`, the case list of R69 over OP and A, with RSV zero. -/
def legal (cmd : Word) : Bool :=
  let a := (argField cmd).toNat
  rsvField cmd == 0#20 &&
  match (opField cmd).toNat with
  | 0x01 | 0x02 => [0, 1, 2, 4, 5, 6, 7].contains a
  | 0x20 | 0x21 => decide (a ≤ 9)
  | 0x10 | 0x11 | 0x22 | 0x30 | 0x31 => a == 0
  | _ => false

/-! ## Decoding -/

/-- Why a command word is illegal: the five cases of 60_exceptions.md R162. All of them raise ILLEGAL_COMMAND. -/
inductive DecodeError where
  /-- `cmd[31:12]` is not zero (30_encoding.md R62). -/
  | reservedBits
  /-- One of the 247 unassigned OP values (30_encoding.md R68). -/
  | unassignedOpcode
  /-- SEL 3 or 8..15 in LD or RD (30_encoding.md R65). -/
  | reservedSelector
  /-- STEP above 9 in ROUNDF or ROUNDI (30_encoding.md R64). -/
  | stepOutOfRange
  /-- A is not zero in BOXF, BOXI, WHITEN, ENC or DEC (30_encoding.md R63). -/
  | argumentNotZero
  deriving DecidableEq, Repr

/-- The register a SEL value names (30_encoding.md R65); reserved values name none. -/
def selected (sel : BitVec 4) : Option OpReg :=
  match sel.toNat with
  | 0 => some .x
  | 1 => some .y
  | 2 => some .c
  | 4 => some .k0
  | 5 => some .k1
  | 6 => some .k2
  | 7 => some .k3
  | _ => none

/-- A command whose operand is a register selector. -/
def withSelector (cmd : Word) (make : OpReg → Instr) : Except DecodeError Instr :=
  match selected (argField cmd) with
  | some r => .ok (make r)
  | none => .error .reservedSelector

/-- A command whose operand is a round index. -/
def withStep (cmd : Word) (make : BitVec 4 → Instr) : Except DecodeError Instr :=
  if stepInRange (argField cmd) then .ok (make (argField cmd)) else .error .stepOutOfRange

/-- A command that takes no operand. -/
def withoutArgument (cmd : Word) (i : Instr) : Except DecodeError Instr :=
  if argField cmd = 0#4 then .ok i else .error .argumentNotZero

/-- The opcode map of 30_encoding.md R67, applied to a word whose reserved bits are zero. -/
def decodeOpcode (cmd dataIn : Word) : Except DecodeError Instr :=
  match (opField cmd).toNat with
  | 0x01 => withSelector cmd (fun r => .ld r dataIn)
  | 0x02 => withSelector cmd .rd
  | 0x10 => withoutArgument cmd .boxf
  | 0x11 => withoutArgument cmd .boxi
  | 0x20 => withStep cmd .roundf
  | 0x21 => withStep cmd .roundi
  | 0x22 => withoutArgument cmd .whiten
  | 0x30 => withoutArgument cmd .enc
  | 0x31 => withoutArgument cmd .dec
  | _ => .error .unassignedOpcode

/-- The decoder, total on every command word and data word. `dataIn` reaches LD only (30_encoding.md R66). -/
def decode (cmd dataIn : Word) : Except DecodeError Instr :=
  if rsvField cmd = 0#20 then decodeOpcode cmd dataIn else .error .reservedBits

/-! ## Encoding -/

/-- The SEL value of a register (30_encoding.md R65). -/
def selectorOf : OpReg → BitVec 4
  | .x => 0#4
  | .y => 1#4
  | .c => 2#4
  | .k0 => 4#4
  | .k1 => 5#4
  | .k2 => 6#4
  | .k3 => 7#4

/-- `RSV || A || OP` with RSV zero: the one command format (30_encoding.md R61). -/
def commandWord (a : BitVec 4) (op : BitVec 8) : Word := 0#20 ++ a ++ op

/-- The command word of an instruction (30_encoding.md R67). An illegal round index is placed in A as it stands. -/
def encodeCmd : Instr → Word
  | .ld sel _ => commandWord (selectorOf sel) 0x01#8
  | .rd sel => commandWord (selectorOf sel) 0x02#8
  | .boxf => commandWord 0#4 0x10#8
  | .boxi => commandWord 0#4 0x11#8
  | .roundf step => commandWord step 0x20#8
  | .roundi step => commandWord step 0x21#8
  | .whiten => commandWord 0#4 0x22#8
  | .enc => commandWord 0#4 0x30#8
  | .dec => commandWord 0#4 0x31#8

/-- The data word sent with an instruction: LD's operand. DESIGN CHOICE: zero for the commands that ignore it
(30_encoding.md R66); any other word decodes to the same command, so the choice is safe (log 6). -/
def encodeData : Instr → Word
  | .ld _ dataIn => dataIn
  | .rd _ => 0#32
  | .boxf => 0#32
  | .boxi => 0#32
  | .roundf _ => 0#32
  | .roundi _ => 0#32
  | .whiten => 0#32
  | .enc => 0#32
  | .dec => 0#32

/-- The two words of an instruction: the command word, then the data word (30_encoding.md R70). -/
def encode (i : Instr) : List Word := [encodeCmd i, encodeData i]

/-! ## The host's view of an instruction as one number -/

/-- The command word and the data word laid out in one number: bits 31..0 and bits 63..32, with every bit from
`nbits` up read as zero. -/
def tableWords (nbits w : Nat) : Word × Word :=
  let v := w % 2 ^ nbits
  (BitVec.ofNat 32 v, BitVec.ofNat 32 (v / 2 ^ 32))

/-- What the decoder reads from an instruction whose bits are `w`. -/
def decodeTableWord (nbits w : Nat) : Option Instr :=
  match decode (tableWords nbits w).1 (tableWords nbits w).2 with
  | .ok i => some i
  | .error _ => none

end Sys2Proof
end

