-- ==== Sys2Proof/Machine/Rom.lean ====
section
/-! DEFINITION. The round-constant ROM (10_state.md R23) and its default contents (00_scope.md R7). -/

namespace Sys2Proof.Machine

/-- The ROM `RCON[0..4]`: `NRCON` = 5 words of 32 bits (10_state.md R23, 00_scope.md R6). -/
abbrev Rcon := Vector Word 5

/-- The contents this hardware takes (00_scope.md R7). PRESUMED: the spec itself says that the values are from general
knowledge and that the known-answer vector confirms them. Unsafe for a claim that leans on these five values, so the ROM
is a field of State and a claim over all states holds for every table (log 5). -/
def rconDefault : Rcon := #v[0xB7E15162#32, 0xBF715880#32, 0x38B4DA56#32, 0x324E7738#32, 0xBB1185EB#32]

/-- `RCON[step mod 5]` (41_round_function.md R101). -/
def rconAt (rcon : Rcon) (step : Nat) : Word := rcon[step % 5]

end Sys2Proof.Machine
end

