-- ==== Sys2Proof/Machine/State.lean ====
section
/-! DEFINITION. The state of the block as plain data (10_state.md R20 to R31), the host's coming actions on its port, and
the state right after reset. -/

namespace Sys2Proof.Machine

/-- One operand register: its 32-bit value and its written bit `W[n]` (10_state.md R20 to R22, R24). -/
structure OperandReg where
  value : Word
  written : Bool
  deriving DecidableEq, Repr

/-- An operand register after reset: `W[n] = 0` (10_state.md R31). DESIGN CHOICE: the spec leaves the value unspecified
and this model names zero; unsafe if a claim leans on the zero, but no command observes it (10_state.md R24, log 4). -/
def OperandReg.unwritten : OperandReg := ⟨0#32, false⟩

/-- `CAUSE` (10_state.md R25, 60_exceptions.md R161). Code 3 is reserved and never written, so the type has no name for
it (93_implementation_defined.md I3). DESIGN CHOICE, safe: log 9. -/
inductive Cause where
  /-- Code 0: no fault yet. -/
  | none
  /-- Code 1: the command word is not legal (60_exceptions.md R162). -/
  | illegalCommand
  /-- Code 2: a register the command reads is unwritten (60_exceptions.md R163). -/
  | uninitRead
  deriving DecidableEq, Repr

/-- The status part of a response (30_encoding.md R60). -/
inductive Status where
  /-- The command executed. -/
  | done
  /-- This command faulted. -/
  | fault
  /-- The block was already faulted. -/
  | dropped
  deriving DecidableEq, Repr

/-- A response: its status and `data_out`, which has a value only for an RD that is DONE and is `none` otherwise
(30_encoding.md R60). -/
structure Response where
  status : Status
  dataOut : Option Word
  deriving DecidableEq, Repr

/-- What the host does at the block's inputs: one command transaction (30_encoding.md R60) or one reset
(70_reset_and_hazards.md R180; power-up counts as a reset). -/
inductive HostAction where
  | command (cmd : Word) (dataIn : Word)
  | reset
  deriving DecidableEq, Repr

/-- The whole state. The fields up to `rcon` are the spec's table (10_state.md R31). `resp` and `host` are the model's
own: the last response, and the host's coming actions, first one first. DESIGN CHOICE, safe: logs 1 and 3. -/
structure State where
  /-- Block word x (10_state.md R20). -/
  x : OperandReg
  /-- Block word y (10_state.md R20). -/
  y : OperandReg
  /-- Box constant (10_state.md R22). -/
  c : OperandReg
  /-- Key word 0 (10_state.md R21). -/
  k0 : OperandReg
  /-- Key word 1 (10_state.md R21). -/
  k1 : OperandReg
  /-- Key word 2 (10_state.md R21). -/
  k2 : OperandReg
  /-- Key word 3 (10_state.md R21). -/
  k3 : OperandReg
  /-- `FAULT` (10_state.md R25). -/
  fault : Bool
  /-- `CAUSE` (10_state.md R25). -/
  cause : Cause
  /-- `FCMD` (10_state.md R25). -/
  fcmd : Word
  /-- `RCON[0..4]` (10_state.md R23). -/
  rcon : Rcon
  /-- The response of the last command, none before the first. -/
  resp : Option Response
  /-- What the host does next, in order. -/
  host : List HostAction
  deriving DecidableEq, Repr

/-- Reasons for which the machine stops with a fault: none. The block's own faults are states it goes on from
(60_exceptions.md R166, R167), and every command word executes or faults in that sense (00_scope.md R14), so no
meaning ever stops the model. DEDUCED, safe: log 8. -/
inductive Fault where
  deriving DecidableEq, Repr

/-- Reasons for which an instruction has no meaning. -/
inductive Refusal where
  /-- Raised by an arm of `exec` whose instruction has no meaning yet; no arm of this model does. Safe: the machine
  stops where the hardware goes on. -/
  | notModelled (mnemonic : String)
  deriving DecidableEq, Repr

/-- The machine right after reset (10_state.md R31, 70_reset_and_hazards.md R180): every register unwritten, no fault,
the ROM at its default contents, no response given and no command on the port. -/
def State.reset : State where
  x := .unwritten
  y := .unwritten
  c := .unwritten
  k0 := .unwritten
  k1 := .unwritten
  k2 := .unwritten
  k3 := .unwritten
  fault := false
  cause := .none
  fcmd := 0x00000000#32
  rcon := rconDefault
  resp := none
  host := []

end Sys2Proof.Machine
end

