-- ==== Sys2Proof/Machine/Operands.lean ====
section
/-! DEFINITION. Reading operands: the selector space (30_encoding.md R65), the block and key views of the registers
(00_scope.md R13, 10_state.md R20, R21), and the read set of each command (60_exceptions.md R163). -/

namespace Sys2Proof.Machine

/-- The block `(x, y)` the cipher transforms (00_scope.md R6, R13). -/
structure Block where
  x : Word
  y : Word
  deriving DecidableEq, Repr

/-- The key words `k[0..3]` (00_scope.md R6). -/
abbrev Key := Vector Word 4

/-- The register a selector names, with its written bit. -/
def State.operand (s : State) : OpReg → OperandReg
  | .x => s.x
  | .y => s.y
  | .c => s.c
  | .k0 => s.k0
  | .k1 => s.k1
  | .k2 => s.k2
  | .k3 => s.k3

/-- `R[n]` (00_scope.md R11). -/
def State.reg (s : State) (n : OpReg) : Word := (s.operand n).value

/-- `W[n]` (00_scope.md R11, 10_state.md R24). -/
def State.written (s : State) (n : OpReg) : Bool := (s.operand n).written

/-- The register pair `(X, Y)`. -/
def State.block (s : State) : Block := ⟨s.reg .x, s.reg .y⟩

/-- `(K[0], K[1], K[2], K[3])`. -/
def State.key (s : State) : Key := #v[s.reg .k0, s.reg .k1, s.reg .k2, s.reg .k3]

/-- The key registers that round `step` injects: K0 and K1 on even steps, K2 and K3 on odd ones
(41_round_function.md R100). -/
def keyPair (step : Nat) : List OpReg := if step % 2 = 0 then [.k0, .k1] else [.k2, .k3]

/-- `ReadSet(cmd)`: the table of 60_exceptions.md R163. -/
def readSet : Instr → List OpReg
  | .ld _ _ => []
  | .rd sel => [sel]
  | .boxf => [.x, .y, .c]
  | .boxi => [.x, .y, .c]
  | .roundf step => [.x, .y] ++ keyPair step.toNat
  | .roundi step => [.x, .y] ++ keyPair step.toNat
  | .whiten => [.x, .y, .k0, .k1]
  | .enc => [.x, .y, .k0, .k1, .k2, .k3]
  | .dec => [.x, .y, .k0, .k1, .k2, .k3]

/-- Every register of the list has its written bit set. -/
def State.allWritten (s : State) (reads : List OpReg) : Bool := reads.all s.written

end Sys2Proof.Machine
end

