-- ==== Sys2Proof/Machine/Ops.lean ====
section
/-! DEFINITION. The shared operations: writing registers, responding, entering the fault state, dropping a command,
the order in which every command is processed (60_exceptions.md R164), and reset. -/

namespace Sys2Proof.Machine

/-! ## Writing -/

/-- `R[n] <- v; W[n] <- 1` (10_state.md R24). -/
def State.setReg (s : State) (n : OpReg) (v : Word) : State :=
  match n with
  | .x => { s with x := ⟨v, true⟩ }
  | .y => { s with y := ⟨v, true⟩ }
  | .c => { s with c := ⟨v, true⟩ }
  | .k0 => { s with k0 := ⟨v, true⟩ }
  | .k1 => { s with k1 := ⟨v, true⟩ }
  | .k2 => { s with k2 := ⟨v, true⟩ }
  | .k3 => { s with k3 := ⟨v, true⟩ }

/-- `X <- x; Y <- y; W[X] <- 1; W[Y] <- 1`, the end of every transforming command. -/
def State.setBlock (s : State) (b : Block) : State := (s.setReg .x b.x).setReg .y b.y

/-! ## Responding -/

/-- `resp <- (status, dataOut)`. -/
def State.respond (s : State) (status : Status) (dataOut : Option Word) : State :=
  { s with resp := some ⟨status, dataOut⟩ }

/-- `resp <- (DONE, none)`. -/
def State.done (s : State) : State := s.respond .done none

/-- `resp <- (DONE, v)`: the answer of RD. -/
def State.doneWith (s : State) (v : Word) : State := s.respond .done (some v)

/-! ## The host -/

/-- The state with the host about to do `actions` and nothing after. -/
def State.driven (s : State) (actions : List HostAction) : State := { s with host := actions }

/-! ## Faults -/

/-- `raise Fault(cause, cmd)` (60_exceptions.md R166). Nothing else changes, and control goes nowhere. -/
def State.raiseFault (s : State) (cause : Cause) (cmd : Word) : State :=
  { s with fault := true, cause := cause, fcmd := cmd }.respond .fault none

/-- A command while FAULT = 1: no state changes and the response is `(DROPPED, none)` (60_exceptions.md R167). -/
def State.drop (s : State) : State := s.respond .dropped none

/-! ## Processing a command -/

/-- A command word whose `Legal(cmd)` is false (60_exceptions.md R164, R162): dropped by a faulted block, else
ILLEGAL_COMMAND. -/
def State.rejectIllegal (s : State) (cmd : Word) : State :=
  if s.fault then s.drop else s.raiseFault .illegalCommand cmd

/-- The order of 60_exceptions.md R164: dropped if already faulted, then ILLEGAL_COMMAND, then UNINIT_READ, and only then
the command's own rule. -/
def State.process (s : State) (cmd : Word) (reads : List OpReg) (perform : State → State) : State :=
  if s.fault then s.drop
  else if !legal cmd then s.raiseFault .illegalCommand cmd
  else if !s.allWritten reads then s.raiseFault .uninitRead cmd
  else perform s

/-- One instruction as an atomic transition (00_scope.md R14). `cmd` is the instruction's own command word, which is the
word on the port (DEDUCED, safe: log 7). -/
def runCommand (i : Instr) (perform : State → State) (s : State) : Host.Outcome State Fault Refusal :=
  .next (s.process (encodeCmd i) (readSet i) perform)

/-- A command that transforms the block: `(X, Y) <- f(s)`, response `(DONE, none)`. The operands are read before
either register is written (10_state.md R29). -/
def runTransform (i : Instr) (f : State → Block) (s : State) : Host.Outcome State Fault Refusal :=
  runCommand i (fun t => (t.setBlock (f t)).done) s

/-! ## Reset -/

/-- Reset (70_reset_and_hazards.md R180): every written bit, FAULT, CAUSE and FCMD cleared, the ROM kept. It returns no
response (R181), and the host's later actions stay. The values registers then hold are those of log 4. -/
def State.resetBlock (s : State) : State := { State.reset with rcon := s.rcon, host := s.host }

end Sys2Proof.Machine
end

