-- ==== Sys2Proof/Machine/MixingBox.lean ====
section
/-! DEFINITION. The Mixing Box (40_mixing_box.md): rotation, the twelve steps of each direction, BOXF and BOXI. -/

namespace Sys2Proof.Machine

/-- `rotr(v, n)` within a 32-bit word, for 0 < n < 32 (40_mixing_box.md R80). -/
def rotr (v : Word) (n : Nat) : Word := (v >>> n) ||| (v <<< (32 - n))

/-! ## The single steps (40_mixing_box.md R82, R83)

Each updates one word from the current value of the other, or injects the constant into x. The y-updates are additions
and subtractions, not exclusive-ors (40_mixing_box.md R86, 90_conflicts.md C5), and the rotation amounts of the inverse
are fixed (90_conflicts.md C1). -/

/-- `x <- x + rotr(y, n)`. -/
def addX (n : Nat) (b : Block) : Block := { b with x := b.x + rotr b.y n }

/-- `y <- y + rotr(x, n)`. -/
def addY (n : Nat) (b : Block) : Block := { b with y := b.y + rotr b.x n }

/-- `x <- x + y`. -/
def addPlain (b : Block) : Block := { b with x := b.x + b.y }

/-- `x <- x - rotr(y, n)`. -/
def subX (n : Nat) (b : Block) : Block := { b with x := b.x - rotr b.y n }

/-- `y <- y - rotr(x, n)`. -/
def subY (n : Nat) (b : Block) : Block := { b with y := b.y - rotr b.x n }

/-- `x <- x - y`. -/
def subPlain (b : Block) : Block := { b with x := b.x - b.y }

/-- `x <- x ^ c`. -/
def xorC (c : Word) (b : Block) : Block := { b with x := b.x ^^^ c }

/-! ## The box -/

/-- `BoxFwd(x, y, c)`, steps 1 to 12 of 40_mixing_box.md R82. -/
def boxFwd (b : Block) (c : Word) : Block :=
  b |> addX 31 |> addY 24 |> xorC c
    |> addX 17 |> addY 17 |> xorC c
    |> addPlain |> addY 31 |> xorC c
    |> addX 24 |> addY 16 |> xorC c

/-- `BoxInv(x, y, c)`, steps 1 to 12 of 40_mixing_box.md R83. -/
def boxInv (b : Block) (c : Word) : Block :=
  b |> xorC c |> subY 16 |> subX 24
    |> xorC c |> subY 31 |> subPlain
    |> xorC c |> subY 17 |> subX 17
    |> xorC c |> subY 24 |> subX 31

/-! ## The commands -/

/-- BOXF (40_mixing_box.md R87). -/
def execBoxf (s : State) : Host.Outcome State Fault Refusal :=
  runTransform .boxf (fun t => boxFwd t.block (t.reg .c)) s

/-- BOXI (40_mixing_box.md R88). -/
def execBoxi (s : State) : Host.Outcome State Fault Refusal :=
  runTransform .boxi (fun t => boxInv t.block (t.reg .c)) s

end Sys2Proof.Machine
end

