-- ==== Sys2Proof/Machine/Round.lean ====
section
/-! DEFINITION. The round function (41_round_function.md): key injection, one round in each direction, whitening, and the
commands ROUNDF, ROUNDI and WHITEN. -/

namespace Sys2Proof.Machine

/-- `kx = k[2 * (step mod 2)]` (41_round_function.md R100). -/
def keyX (k : Key) (step : Nat) : Word := k[2 * (step % 2)]

/-- `ky = k[2 * (step mod 2) + 1]` (41_round_function.md R100). -/
def keyY (k : Key) (step : Nat) : Word := k[2 * (step % 2) + 1]

/-- `Inject(x, y, k, step)` (41_round_function.md R102). The index is zero-extended to 32 bits (30_encoding.md R64). -/
def inject (b : Block) (k : Key) (step : Nat) : Block :=
  ⟨b.x ^^^ BitVec.ofNat 32 step ^^^ keyX k step, b.y ^^^ BitVec.ofNat 32 step ^^^ keyY k step⟩

/-- `RoundFwd(x, y, k, step)` (41_round_function.md R103): the injection, then the box. -/
def roundFwd (rcon : Rcon) (k : Key) (step : Nat) (b : Block) : Block := boxFwd (inject b k step) (rconAt rcon step)

/-- `RoundInv(x, y, k, step)` (41_round_function.md R104): the box inverse, then the injection undone. -/
def roundInv (rcon : Rcon) (k : Key) (step : Nat) (b : Block) : Block := inject (boxInv b (rconAt rcon step)) k step

/-- `Whiten(x, y, k)` (41_round_function.md R106). -/
def whiten (b : Block) (k : Key) : Block := ⟨b.x ^^^ k[0], b.y ^^^ k[1]⟩

/-- ROUNDF step (41_round_function.md R107). -/
def execRoundf (step : BitVec 4) (s : State) : Host.Outcome State Fault Refusal :=
  runTransform (.roundf step) (fun t => roundFwd t.rcon t.key step.toNat t.block) s

/-- ROUNDI step (41_round_function.md R108). -/
def execRoundi (step : BitVec 4) (s : State) : Host.Outcome State Fault Refusal :=
  runTransform (.roundi step) (fun t => roundInv t.rcon t.key step.toNat t.block) s

/-- WHITEN (41_round_function.md R109). -/
def execWhiten (s : State) : Host.Outcome State Fault Refusal :=
  runTransform .whiten (fun t => whiten t.block t.key) s

end Sys2Proof.Machine
end

