-- ==== Sys2Proof/Machine/Schedule.lean ====
section
/-! DEFINITION. The round schedules (42_round_schedule.md) and the commands ENC and DEC. -/

namespace Sys2Proof.Machine

/-- `Encrypt(x, y, k)` (42_round_schedule.md R120): rounds 0 to 9 in increasing order, then the final whitening. There is no
whitening before the first round (90_conflicts.md C4). -/
def encrypt (rcon : Rcon) (k : Key) (b : Block) : Block :=
  whiten ((List.range Config.rounds).foldl (fun b step => roundFwd rcon k step b) b) k

/-- `Decrypt(x, y, k)` (42_round_schedule.md R121): the whitening undone, then rounds 9 to 0 in decreasing order. -/
def decrypt (rcon : Rcon) (k : Key) (b : Block) : Block :=
  (List.range Config.rounds).reverse.foldl (fun b step => roundInv rcon k step b) (whiten b k)

/-- ENC (42_round_schedule.md R124): the whole schedule is one atomic transition. -/
def execEnc (s : State) : Host.Outcome State Fault Refusal :=
  runTransform .enc (fun t => encrypt t.rcon t.key t.block) s

/-- DEC (42_round_schedule.md R125). -/
def execDec (s : State) : Host.Outcome State Fault Refusal :=
  runTransform .dec (fun t => decrypt t.rcon t.key t.block) s

end Sys2Proof.Machine
end

