-- ==== Sys2Proof/Machine/Transfer.lean ====
section
/-! DEFINITION. The transfer commands LD and RD (43_host_transfer.md R140, R141). -/

namespace Sys2Proof.Machine

/-- LD (43_host_transfer.md R140): the whole of `data_in` into the selected register, unchanged (30_encoding.md R66). -/
def execLd (sel : OpReg) (dataIn : Word) (s : State) : Host.Outcome State Fault Refusal :=
  runCommand (.ld sel dataIn) (fun t => (t.setReg sel dataIn).done) s

/-- RD (43_host_transfer.md R141): the selected register on `data_out`; no register changes (20_memory.md R43). -/
def execRd (sel : OpReg) (s : State) : Host.Outcome State Fault Refusal :=
  runCommand (.rd sel) (fun t => t.doneWith (t.reg sel)) s

end Sys2Proof.Machine
end

