-- ==== Sys2Proof/Machine/Dispatch.lean ====
section
/-! DEFINITION. One arm per command of the opcode map (30_encoding.md R67). -/

namespace Sys2Proof.Machine

def exec (i : Instr) (s : State) : Host.Outcome State Fault Refusal :=
  match i with
  | .ld sel dataIn => Sys2Proof.Machine.execLd sel dataIn s
  | .rd sel => Sys2Proof.Machine.execRd sel s
  | .boxf => Sys2Proof.Machine.execBoxf s
  | .boxi => Sys2Proof.Machine.execBoxi s
  | .roundf step => Sys2Proof.Machine.execRoundf step s
  | .roundi step => Sys2Proof.Machine.execRoundi step s
  | .whiten => Sys2Proof.Machine.execWhiten s
  | .enc => Sys2Proof.Machine.execEnc s
  | .dec => Sys2Proof.Machine.execDec s

end Sys2Proof.Machine
end

