-- ==== Sys2Proof/Machine/Port.lean ====
section
/-! DEFINITION. The command port: what the host's next action gives the block (30_encoding.md R60, 20_memory.md R46,
70_reset_and_hazards.md R180, R182, R186), and placing a command on the port. -/

namespace Sys2Proof.Machine

/-- What the port holds at one step. -/
inductive Fetched where
  /-- Nothing to execute: the step ends in this state (the host is idle, a reset, or an illegal command word). -/
  | settled (s : State)
  /-- A legal command, and the state it runs in. -/
  | command (i : Instr) (s : State)
  deriving DecidableEq, Repr

/-- Take the host's next action. With none the block waits and holds its state (70_reset_and_hazards.md R182,
60_exceptions.md R176). An illegal word ends in `rejectIllegal` (60_exceptions.md R164). -/
def fetch (s : State) : Fetched :=
  match s.host with
  | [] => .settled s
  | .reset :: rest => .settled (s.driven rest).resetBlock
  | .command cmd dataIn :: rest =>
    match decode cmd dataIn with
    | .ok i => .command i (s.driven rest)
    | .error _ => .settled ((s.driven rest).rejectIllegal cmd)

/-- The host action that sends an instruction (30_encoding.md R60, R70). -/
def sendInstr (i : Instr) : HostAction := .command (encodeCmd i) (encodeData i)

/-- Put the command whose bits are `w` on the port, before everything the host does later. -/
def placeCommand (s : State) (nbits w : Nat) : State :=
  s.driven (.command (tableWords nbits w).1 (tableWords nbits w).2 :: s.host)

end Sys2Proof.Machine
end

