-- ==== Sys2Proof/Machine/Step.lean ====
section
/-! DEFINITION. One step of the block (00_scope.md R14): take the host's next action and, if it is a legal command,
execute it. -/

namespace Sys2Proof.Machine

/-- The step. It is total: every command word executes or faults (00_scope.md R14). -/
def step (s : State) : Host.Outcome State Fault Refusal :=
  match fetch s with
  | .settled t => .next t
  | .command i t => exec i t

/-- `s` with the instruction whose bits are `w` as the command the next step takes (log 2). -/
def State.withFetchWord (s : State) (nbits w : Nat) : State := placeCommand s nbits w

end Sys2Proof.Machine
end

