-- ==== Sys2Proof/Machine/Flags.lean ====
section
/-! DEFINITION. The block has no flags or condition codes: no operation produces a carry, overflow, zero or sign flag
(10_state.md R26). What it shows beside a response are its three status outputs (30_encoding.md R60, 10_state.md R25). -/

namespace Sys2Proof.Machine

/-- The cause codes (60_exceptions.md R161). -/
def causeCode : Cause → BitVec 2
  | .none => 0#2
  | .illegalCommand => 1#2
  | .uninitRead => 2#2

/-- The level output `fault_o`. -/
def faultOut (s : State) : BitVec 1 := BitVec.ofBool s.fault

/-- The output `cause_o[1:0]`. -/
def causeOut (s : State) : BitVec 2 := causeCode s.cause

/-- The output `fcmd_o[31:0]`. -/
def fcmdOut (s : State) : Word := s.fcmd

end Sys2Proof.Machine
end

