-- ==== Sys2Proof/Machine/HostConventions.lean ====
section
/-! DEFINITION. The host's side of the port: the codec mappings, which the spec keeps as normative host conventions
(43_host_transfer.md R144 to R147, 90_conflicts.md C2), the host procedure (R143), and the pseudo-commands
(30_encoding.md R72). Nothing here is part of the block. -/

namespace Sys2Proof.Machine

/-- One byte of a host buffer. -/
abbrev Byte := BitVec 8

/-! ## Block representations (43_host_transfer.md R144 to R146) -/

/-- 64-bit integer form: low 32 bits to X, high 32 bits to Y (R144). -/
def blockOfInt (b : BitVec 64) : Block := ⟨b.extractLsb' 0 32, b.extractLsb' 32 32⟩

/-- `Y || X` (R144). -/
def intOfBlock (b : Block) : BitVec 64 := b.y ++ b.x

/-- Word-pair form (R145). -/
def blockOfPair (w : Vector Word 2) : Block := ⟨w[0], w[1]⟩

/-- `[X, Y]` (R145). -/
def pairOfBlock (b : Block) : Vector Word 2 := #v[b.x, b.y]

/-- Four bytes as a little-endian word, byte 0 the least significant (20_memory.md R45). -/
def wordOfBytes (b0 b1 b2 b3 : Byte) : Word := b3 ++ b2 ++ b1 ++ b0

/-- Byte `i` of a word: `w[8i+7:8i]`. -/
def byteOfWord (w : Word) (i : Nat) : Byte := w.extractLsb' (8 * i) 8

/-- 8-byte buffer form (R146). -/
def blockOfBytes (b : Vector Byte 8) : Block :=
  ⟨wordOfBytes b[0] b[1] b[2] b[3], wordOfBytes b[4] b[5] b[6] b[7]⟩

/-- The output buffer (R146): `B'[i] = X[8i+7:8i]` and `B'[4+i] = Y[8i+7:8i]`. -/
def bytesOfBlock (b : Block) : Vector Byte 8 :=
  #v[byteOfWord b.x 0, byteOfWord b.x 1, byteOfWord b.x 2, byteOfWord b.x 3,
     byteOfWord b.y 0, byteOfWord b.y 1, byteOfWord b.y 2, byteOfWord b.y 3]

/-- Key from bytes (R147). -/
def keyOfBytes (kb : Vector Byte 16) : Key :=
  #v[wordOfBytes kb[0] kb[1] kb[2] kb[3], wordOfBytes kb[4] kb[5] kb[6] kb[7],
     wordOfBytes kb[8] kb[9] kb[10] kb[11], wordOfBytes kb[12] kb[13] kb[14] kb[15]]

/-! ## Pseudo-commands (30_encoding.md R72) -/

/-- `LDKEY k0, k1, k2, k3`. -/
def ldKey (k : Key) : List Instr := [.ld .k0 k[0], .ld .k1 k[1], .ld .k2 k[2], .ld .k3 k[3]]

/-- `LDKEYB b0, ..., b15`. -/
def ldKeyBytes (kb : Vector Byte 16) : List Instr := ldKey (keyOfBytes kb)

/-- The two loads of a block. -/
def ldBlock (b : Block) : List Instr := [.ld .x b.x, .ld .y b.y]

/-- `LDBLK b64`. -/
def ldBlockInt (b : BitVec 64) : List Instr := ldBlock (blockOfInt b)

/-- `LDBLKB b0, ..., b7`. -/
def ldBlockBytes (b : Vector Byte 8) : List Instr := ldBlock (blockOfBytes b)

/-- The round indexes 0 to 9, as the STEP fields of commands. -/
def roundSteps : List (BitVec 4) := (List.range Config.rounds).map (BitVec.ofNat 4)

/-- `ENCR`: `ROUNDF 0; ...; ROUNDF 9; WHITEN`. -/
def encRounds : List Instr := roundSteps.map .roundf ++ [.whiten]

/-- `DECR`: `WHITEN; ROUNDI 9; ...; ROUNDI 0`. -/
def decRounds : List Instr := .whiten :: roundSteps.reverse.map .roundi

/-! ## Host procedure (43_host_transfer.md R143) -/

/-- The command sequence of one `encrypt_*` call. -/
def encryptCall (k : Key) (b : Block) : List Instr := ldKey k ++ ldBlock b ++ [.enc, .rd .x, .rd .y]

/-- The command sequence of one `decrypt_*` call. -/
def decryptCall (k : Key) (b : Block) : List Instr := ldKey k ++ ldBlock b ++ [.dec, .rd .x, .rd .y]

end Sys2Proof.Machine
end

