-- ==== Sys2Proof/Safety.lean ====
section
/-! DEFINITION. What claims about the block are stated in: the standard premises, the observation of a run, the state up to
what no command can observe, and the invariant of the fault record. -/

namespace Sys2Proof.Machine

/-- The standard premises (00_scope.md R15): `FAULT = 0`, and every register of the list has been written. -/
def State.ready (s : State) (reads : List OpReg) : Bool := !s.fault && s.allWritten reads

/-- The host sends these instructions, one command each. -/
def sendAll (is : List Instr) : List HostAction := is.map sendInstr

/-- The instruction is one of the seven that transform the block (10_state.md R20). -/
def transforms : Instr → Bool
  | .ld _ _ => false
  | .rd _ => false
  | .boxf => true
  | .boxi => true
  | .roundf _ => true
  | .roundi _ => true
  | .whiten => true
  | .enc => true
  | .dec => true

/-- The operand registers a command writes when it executes (10_state.md R20 to R22, 43_host_transfer.md R142). -/
def writeSet : Instr → List OpReg
  | .ld sel _ => [sel]
  | .rd _ => []
  | .boxf => [.x, .y]
  | .boxi => [.x, .y]
  | .roundf _ => [.x, .y]
  | .roundi _ => [.x, .y]
  | .whiten => [.x, .y]
  | .enc => [.x, .y]
  | .dec => [.x, .y]

/-- The host's action can write the register: a reset, or a legal command with the register in its write set
(43_host_transfer.md R142). -/
def mayWrite (r : OpReg) : HostAction → Bool
  | .reset => true
  | .command cmd dataIn =>
    match decode cmd dataIn with
    | .ok i => decide (r ∈ writeSet i)
    | .error _ => false

/-- The status registers, the ROM and the host's later actions are the same in both states. -/
def State.sameRest (s t : State) : Prop :=
  t.fault = s.fault ∧ t.cause = s.cause ∧ t.fcmd = s.fcmd ∧ t.rcon = s.rcon ∧ t.host = s.host

/-- The response a step returns: a command returns one, an idle port and a reset return none
(30_encoding.md R60, 70_reset_and_hazards.md R181). -/
def responseOf (before after : State) : List Response :=
  match before.host with
  | .command _ _ :: _ => after.resp.toList
  | _ => []

/-- The observation of a run of `n` steps: the responses to the host's commands, and the final state (00_scope.md R15). -/
def observe : Nat → State → List Response × State
  | 0, s => ([], s)
  | n + 1, s =>
    match step s with
    | .next t => (responseOf s t ++ (observe n t).1, (observe n t).2)
    | .fault _ => ([], s)
    | .refused _ => ([], s)

/-- No reset among these host actions. -/
def commandsOnly (actions : List HostAction) : Bool :=
  actions.all (fun a => decide (a ≠ .reset))

/-- A register with the value it holds while unwritten left out (10_state.md R24). -/
def OperandReg.forget (r : OperandReg) : OperandReg := if r.written then r else ⟨0#32, false⟩

/-- The state with every unwritten register's value left out: what commands, outputs and responses can depend on. -/
def State.forgetUnwritten (s : State) : State :=
  { s with x := s.x.forget, y := s.y.forget, c := s.c.forget, k0 := s.k0.forget, k1 := s.k1.forget, k2 := s.k2.forget, k3 := s.k3.forget }

/-- The fault record tells the truth (10_state.md R25, 60_exceptions.md R161 to R166): with no fault CAUSE and FCMD are
at their reset values; after ILLEGAL_COMMAND the recorded word is illegal; after UNINIT_READ it is a legal command with a
register in its read set that is still unwritten. -/
def State.faultRecordSound (s : State) : Bool :=
  match s.cause with
  | .none => !s.fault && s.fcmd == 0#32
  | .illegalCommand => s.fault && !legal s.fcmd
  | .uninitRead => s.fault &&
    match decode s.fcmd 0#32 with
    | .ok i => !s.allWritten (readSet i)
    | .error _ => false

end Sys2Proof.Machine
end

