-- ==== Sys2Proof/Certificates/Slice0/Obligations.lean ====
section
/-! DEFINITION. The statements about the block, drawn from the numbered rules of spec/. -/

open Sys2Proof Sys2Proof.Machine

/-! ## Encoding -/

/-- 30_encoding.md R67, R71: one word of each opcode, as the spec writes it, decodes to its command. -/
def Obligations.DecodesWordsOfEveryOpcode : Prop :=
  decode 0x00000701#32 0x42424242#32 = .ok (.ld .k3 0x42424242#32) ∧
  decode 0x00000102#32 0#32 = .ok (.rd .y) ∧
  decode 0x00000010#32 0#32 = .ok .boxf ∧
  decode 0x00000011#32 0#32 = .ok .boxi ∧
  decode 0x00000920#32 0#32 = .ok (.roundf 9#4) ∧
  decode 0x00000121#32 0#32 = .ok (.roundi 1#4) ∧
  decode 0x00000022#32 0#32 = .ok .whiten ∧
  decode 0x00000030#32 0#32 = .ok .enc ∧
  decode 0x00000031#32 0#32 = .ok .dec

/-- 30_encoding.md R61, R64 to R67, R70: decoding the words of any well-formed instruction gives it back, and for every
command but LD whatever data word comes with it. -/
def Obligations.DecodeOfEncodeIsIdentity : Prop :=
  ∀ i : Instr, i.wf = true →
    decode (encodeCmd i) (encodeData i) = .ok i ∧
    ((∀ sel v, i ≠ .ld sel v) → ∀ dataIn, decode (encodeCmd i) dataIn = .ok i)

/-- 30_encoding.md R61 to R67: a word that decodes is the command word of what it decodes to, so no two words mean the same
command, and FCMD, which a meaning fills with its own command word (log 7), is the word on the port. -/
def Obligations.EncodeOfDecodeIsTheWord : Prop :=
  ∀ (cmd dataIn : Word) (i : Instr), decode cmd dataIn = .ok i →
    i.wf = true ∧ encodeCmd i = cmd ∧ ∀ sel v, i = .ld sel v → v = dataIn

/-- 30_encoding.md section 4: the decoder accepts exactly the words for which `Legal(cmd)` holds. R69 is marked derived by the
spec itself. -/
def Obligations.DecodesExactlyTheLegalWords : Prop :=
  ∀ cmd dataIn : Word, (∃ i, decode cmd dataIn = .ok i) ↔ legal cmd = true

/-- 30_encoding.md section 4 ("7 + 7 + 1 + 1 + 10 + 10 + 1 + 1 + 1 = 39 are legal", a count the spec marks as derived): the
legal words are these and no others. -/
def Obligations.LegalWordsAreTheThirtyNine : Prop :=
  ∀ cmd : Word, legal cmd = true ↔ cmd ∈ ([
    0x001, 0x101, 0x201, 0x401, 0x501, 0x601, 0x701,
    0x002, 0x102, 0x202, 0x402, 0x502, 0x602, 0x702,
    0x010, 0x011,
    0x020, 0x120, 0x220, 0x320, 0x420, 0x520, 0x620, 0x720, 0x820, 0x920,
    0x021, 0x121, 0x221, 0x321, 0x421, 0x521, 0x621, 0x721, 0x821, 0x921,
    0x022, 0x030, 0x031] : List Word)

/-- 60_exceptions.md R162: ILLEGAL_COMMAND is raised exactly when `Legal(cmd)` is false, which is five cases. -/
def Obligations.IllegalCommandExactlyOnIllegalWords : Prop :=
  (∀ (s t : State) (cmd dataIn : Word) (rest : List HostAction),
    s.fault = false → s.host = .command cmd dataIn :: rest → step s = .next t →
    ((t.fault = true ∧ t.cause = .illegalCommand) ↔ legal cmd = false)) ∧
  (∀ cmd : Word, legal cmd = false ↔
    (rsvField cmd ≠ 0#20 ∨
     opField cmd ∉ [0x01#8, 0x02#8, 0x10#8, 0x11#8, 0x20#8, 0x21#8, 0x22#8, 0x30#8, 0x31#8] ∨
     (opField cmd ∈ [0x01#8, 0x02#8] ∧ argField cmd ∈ [3#4, 8#4, 9#4, 10#4, 11#4, 12#4, 13#4, 14#4, 15#4]) ∨
     (opField cmd ∈ [0x20#8, 0x21#8] ∧ 9 < (argField cmd).toNat) ∨
     (opField cmd ∈ [0x10#8, 0x11#8, 0x22#8, 0x30#8, 0x31#8] ∧ argField cmd ≠ 0#4)))

/-- 30_encoding.md R62, R63: nonzero reserved bits, whatever the opcode, and a nonzero argument of a command that takes none,
raise ILLEGAL_COMMAND. -/
def Obligations.ReservedBitsAndStrayArgumentsFault : Prop :=
  ∀ (s : State) (cmd dataIn : Word) (rest : List HostAction),
    s.fault = false → s.host = .command cmd dataIn :: rest →
    (rsvField cmd ≠ 0#20 ∨
      (opField cmd ∈ [0x10#8, 0x11#8, 0x22#8, 0x30#8, 0x31#8] ∧ argField cmd ≠ 0#4)) →
    step s = .next { s with
      host := rest, fault := true, cause := .illegalCommand, fcmd := cmd, resp := some ⟨.fault, none⟩ }

/-- 30_encoding.md R65: the sixteen selector values of LD and RD. Seven name an operand register and nine are illegal; so
neither a status register nor the ROM has a selector. -/
def Obligations.SelectorsNameTheSevenRegisters : Prop :=
  (∀ p ∈ [(0#4, OpReg.x), (1#4, .y), (2#4, .c), (4#4, .k0), (5#4, .k1), (6#4, .k2), (7#4, .k3)],
    ∀ dataIn, decode (commandWord p.1 0x01#8) dataIn = .ok (.ld p.2 dataIn) ∧
      decode (commandWord p.1 0x02#8) dataIn = .ok (.rd p.2)) ∧
  (∀ sel ∈ [3#4, 8#4, 9#4, 10#4, 11#4, 12#4, 13#4, 14#4, 15#4], ∀ op ∈ [0x01#8, 0x02#8],
    ∀ (s : State) (dataIn : Word) (rest : List HostAction),
      s.fault = false → s.host = .command (commandWord sel op) dataIn :: rest →
      step s = .next { s with
        host := rest, fault := true, cause := .illegalCommand, fcmd := commandWord sel op,
        resp := some ⟨.fault, none⟩ })

/-- 30_encoding.md R64: the round index is the A field, legal in 0..9 only; it enters the round zero-extended, into both
words, and selects the key pair and the constant. -/
def Obligations.StepFieldIsTheRoundIndex : Prop :=
  (∀ (a : BitVec 4) (dataIn : Word), a.toNat ≤ 9 →
    decode (commandWord a 0x20#8) dataIn = .ok (.roundf a) ∧
    decode (commandWord a 0x21#8) dataIn = .ok (.roundi a)) ∧
  (∀ (a : BitVec 4) (op : BitVec 8) (s : State) (dataIn : Word) (rest : List HostAction),
    9 < a.toNat → op = 0x20#8 ∨ op = 0x21#8 →
    s.fault = false → s.host = .command (commandWord a op) dataIn :: rest →
    step s = .next { s with
      host := rest, fault := true, cause := .illegalCommand, fcmd := commandWord a op, resp := some ⟨.fault, none⟩ }) ∧
  (∀ (a : BitVec 4) (b : Block) (k : Key) (rcon : Rcon), a.toNat ≤ 9 →
    inject b k a.toNat =
      ⟨b.x ^^^ a.zeroExtend 32 ^^^ k[2 * (a.toNat % 2)], b.y ^^^ a.zeroExtend 32 ^^^ k[2 * (a.toNat % 2) + 1]⟩ ∧
    roundFwd rcon k a.toNat b = boxFwd (inject b k a.toNat) rcon[a.toNat % 5] ∧
    roundInv rcon k a.toNat b = inject (boxInv b rcon[a.toNat % 5]) k a.toNat)

/-- 30_encoding.md R66: LD writes `data_in` unchanged into the selected register; every other command word, legal or not,
ignores it. -/
def Obligations.DataInReachesOnlyLd : Prop :=
  (∀ (s : State) (sel : OpReg) (dataIn : Word) (rest : List HostAction),
    s.fault = false → s.host = .command (commandWord (selectorOf sel) 0x01#8) dataIn :: rest →
    ∃ t, step s = .next t ∧ t.operand sel = ⟨dataIn, true⟩) ∧
  (∀ (s : State) (cmd d e : Word) (rest : List HostAction), opField cmd ≠ 0x01#8 →
    step (s.driven (.command cmd d :: rest)) = step (s.driven (.command cmd e :: rest)))

/-! ## Cipher functions -/

/-- 40_mixing_box.md section 1 (the formula and the examples of R80 are marked derived by the spec): bit i of the rotated word
is bit (i + n) mod 32 of the word. -/
def Obligations.RotationMovesEveryBit : Prop :=
  ∀ (v : Word) (n i : Nat), 0 < n → n < 32 → i < 32 →
    (rotr v n).getLsbD i = v.getLsbD ((i + n) % 32) ∧
    (rotr v n).toNat = (v.toNat >>> n ||| v.toNat <<< (32 - n)) % 2 ^ 32 ∧
    rotr v 31 = v.rotateLeft 1

/-- 40_mixing_box.md R82: the twelve steps of the forward box, each on the current values of x and y. -/
def Obligations.BoxForwardIsTheTwelveSteps : Prop :=
  ∀ x0 y0 c : Word, boxFwd ⟨x0, y0⟩ c =
    (let x := x0 + rotr y0 31
     let y := y0 + rotr x 24
     let x := x ^^^ c
     let x := x + rotr y 17
     let y := y + rotr x 17
     let x := x ^^^ c
     let x := x + y
     let y := y + rotr x 31
     let x := x ^^^ c
     let x := x + rotr y 24
     let y := y + rotr x 16
     let x := x ^^^ c
     ⟨x, y⟩)

/-- 40_mixing_box.md R83: the twelve steps of the inverse box, with fixed rotation amounts. -/
def Obligations.BoxInverseIsTheTwelveSteps : Prop :=
  ∀ x0 y0 c : Word, boxInv ⟨x0, y0⟩ c =
    (let x := x0 ^^^ c
     let y := y0 - rotr x 16
     let x := x - rotr y 24
     let x := x ^^^ c
     let y := y - rotr x 31
     let x := x - y
     let x := x ^^^ c
     let y := y - rotr x 17
     let x := x - rotr y 17
     let x := x ^^^ c
     let y := y - rotr x 24
     let x := x - rotr y 31
     ⟨x, y⟩)

/-- 40_mixing_box.md section 2, Invertibility: each box undoes the other, for every block and every constant. The spec marks the
second identity as derived. -/
def Obligations.BoxesUndoEachOther : Prop :=
  ∀ (b : Block) (c : Word), boxInv (boxFwd b c) c = b ∧ boxFwd (boxInv b c) c = b

/-- 41_round_function.md R100, R103, R104: even steps inject (K0, K1) and odd steps (K2, K3), the first word into x and the second
into y, each with the round index; a forward round injects and then applies the box, an inverse round applies the box inverse
and then undoes the injection. -/
def Obligations.RoundsInjectTheirKeyPairAroundTheBox : Prop :=
  ∀ (rcon : Rcon) (k : Key) (step : Nat) (b : Block), step ≤ 9 →
    (step % 2 = 0 → keyX k step = k[0] ∧ keyY k step = k[1]) ∧
    (step % 2 = 1 → keyX k step = k[2] ∧ keyY k step = k[3]) ∧
    keyX k step = k[2 * (step % 2)] ∧ keyY k step = k[2 * (step % 2) + 1] ∧
    inject b k step = ⟨b.x ^^^ BitVec.ofNat 32 step ^^^ keyX k step, b.y ^^^ BitVec.ofNat 32 step ^^^ keyY k step⟩ ∧
    roundFwd rcon k step b = boxFwd (inject b k step) rcon[step % 5] ∧
    roundInv rcon k step b = inject (boxInv b rcon[step % 5]) k step

/-- 41_round_function.md section 2 (R105 is marked derived by the spec): each round undoes the other, for every key, constant table
and step. -/
def Obligations.RoundsUndoEachOther : Prop :=
  ∀ (rcon : Rcon) (k : Key) (step : Nat) (b : Block), step ≤ 9 →
    roundInv rcon k step (roundFwd rcon k step b) = b ∧
    roundFwd rcon k step (roundInv rcon k step b) = b

/-- 42_round_schedule.md R120, R121: the two schedules, round by round, with each round's body written out. -/
def Obligations.SchedulesAreTheTenRounds : Prop :=
  ∀ (rcon : Rcon) (k : Key) (b : Block),
    (let f := fun (step : Nat) (b : Block) =>
        boxFwd ⟨b.x ^^^ BitVec.ofNat 32 step ^^^ k[2 * (step % 2)], b.y ^^^ BitVec.ofNat 32 step ^^^ k[2 * (step % 2) + 1]⟩
          rcon[step % 5]
     let r := f 9 (f 8 (f 7 (f 6 (f 5 (f 4 (f 3 (f 2 (f 1 (f 0 b)))))))))
     encrypt rcon k b = ⟨r.x ^^^ k[0], r.y ^^^ k[1]⟩) ∧
    (let g := fun (step : Nat) (b : Block) =>
        let d := boxInv b rcon[step % 5]
        (⟨d.x ^^^ BitVec.ofNat 32 step ^^^ k[2 * (step % 2)], d.y ^^^ BitVec.ofNat 32 step ^^^ k[2 * (step % 2) + 1]⟩ : Block)
     decrypt rcon k b = g 0 (g 1 (g 2 (g 3 (g 4 (g 5 (g 6 (g 7 (g 8 (g 9 ⟨b.x ^^^ k[0], b.y ^^^ k[1]⟩))))))))))

/-- 42_round_schedule.md section 1 (the second identity of R123 is marked derived by the spec): for every key, every block and
every constant table, decryption undoes encryption and encryption undoes decryption. -/
def Obligations.SchedulesUndoEachOther : Prop :=
  ∀ (rcon : Rcon) (k : Key) (b : Block),
    decrypt rcon k (encrypt rcon k b) = b ∧ encrypt rcon k (decrypt rcon k b) = b

/-! ## Each command completes -/

/-- 43_host_transfer.md R140: on a block that has not faulted, LD completes; the selected register holds `data_in` and is written,
every other register is as before, and so are the status registers, the ROM and the host's later actions. -/
def Obligations.LdCompletes : Prop :=
  ∀ (sel : OpReg) (dataIn : Word) (s : State), s.fault = false →
    ∃ t, exec (.ld sel dataIn) s = .next t ∧ t.operand sel = ⟨dataIn, true⟩ ∧
      (∀ r, r ≠ sel → t.operand r = s.operand r) ∧ s.sameRest t ∧ t.resp = some ⟨.done, none⟩

/-- 43_host_transfer.md R141: RD of a written register completes, answers with its value, and changes nothing else. -/
def Obligations.RdCompletes : Prop :=
  ∀ (sel : OpReg) (s : State), s.fault = false → s.written sel = true →
    exec (.rd sel) s = .next { s with resp := some ⟨.done, some (s.reg sel)⟩ }

/-- 40_mixing_box.md R87: BOXF completes when X, Y and C are written, and changes X and Y only. -/
def Obligations.BoxfCompletes : Prop :=
  ∀ s : State, s.ready [.x, .y, .c] = true →
    exec .boxf s = .next { s with
      x := ⟨(boxFwd ⟨s.x.value, s.y.value⟩ s.c.value).x, true⟩
      y := ⟨(boxFwd ⟨s.x.value, s.y.value⟩ s.c.value).y, true⟩
      resp := some ⟨.done, none⟩ }

/-- 40_mixing_box.md R88: BOXI completes when X, Y and C are written, and changes X and Y only. -/
def Obligations.BoxiCompletes : Prop :=
  ∀ s : State, s.ready [.x, .y, .c] = true →
    exec .boxi s = .next { s with
      x := ⟨(boxInv ⟨s.x.value, s.y.value⟩ s.c.value).x, true⟩
      y := ⟨(boxInv ⟨s.x.value, s.y.value⟩ s.c.value).y, true⟩
      resp := some ⟨.done, none⟩ }

/-- 41_round_function.md R107: ROUNDF completes for every step in 0..9 when X, Y and the step's key pair are written; the other
two key registers may be unwritten. -/
def Obligations.RoundfCompletes : Prop :=
  ∀ (step : BitVec 4) (s : State), step.toNat ≤ 9 →
    s.ready (if step.toNat % 2 = 0 then [.x, .y, .k0, .k1] else [.x, .y, .k2, .k3]) = true →
    exec (.roundf step) s = .next { s with
      x := ⟨(roundFwd s.rcon #v[s.k0.value, s.k1.value, s.k2.value, s.k3.value] step.toNat ⟨s.x.value, s.y.value⟩).x, true⟩
      y := ⟨(roundFwd s.rcon #v[s.k0.value, s.k1.value, s.k2.value, s.k3.value] step.toNat ⟨s.x.value, s.y.value⟩).y, true⟩
      resp := some ⟨.done, none⟩ }

/-- 41_round_function.md R108: ROUNDI completes for every step in 0..9 when X, Y and the step's key pair are written. -/
def Obligations.RoundiCompletes : Prop :=
  ∀ (step : BitVec 4) (s : State), step.toNat ≤ 9 →
    s.ready (if step.toNat % 2 = 0 then [.x, .y, .k0, .k1] else [.x, .y, .k2, .k3]) = true →
    exec (.roundi step) s = .next { s with
      x := ⟨(roundInv s.rcon #v[s.k0.value, s.k1.value, s.k2.value, s.k3.value] step.toNat ⟨s.x.value, s.y.value⟩).x, true⟩
      y := ⟨(roundInv s.rcon #v[s.k0.value, s.k1.value, s.k2.value, s.k3.value] step.toNat ⟨s.x.value, s.y.value⟩).y, true⟩
      resp := some ⟨.done, none⟩ }

/-- 41_round_function.md R109, R106: WHITEN completes when X, Y, K0 and K1 are written: X ^ K0 and Y ^ K1. -/
def Obligations.WhitenCompletes : Prop :=
  ∀ s : State, s.ready [.x, .y, .k0, .k1] = true →
    exec .whiten s = .next { s with
      x := ⟨s.x.value ^^^ s.k0.value, true⟩
      y := ⟨s.y.value ^^^ s.k1.value, true⟩
      resp := some ⟨.done, none⟩ }

/-- 42_round_schedule.md R124: ENC completes when X, Y and the four key registers are written, and changes X and Y only. -/
def Obligations.EncCompletes : Prop :=
  ∀ s : State, s.ready [.x, .y, .k0, .k1, .k2, .k3] = true →
    exec .enc s = .next { s with
      x := ⟨(encrypt s.rcon #v[s.k0.value, s.k1.value, s.k2.value, s.k3.value] ⟨s.x.value, s.y.value⟩).x, true⟩
      y := ⟨(encrypt s.rcon #v[s.k0.value, s.k1.value, s.k2.value, s.k3.value] ⟨s.x.value, s.y.value⟩).y, true⟩
      resp := some ⟨.done, none⟩ }

/-- 42_round_schedule.md R125: DEC completes when X, Y and the four key registers are written, and changes X and Y only. -/
def Obligations.DecCompletes : Prop :=
  ∀ s : State, s.ready [.x, .y, .k0, .k1, .k2, .k3] = true →
    exec .dec s = .next { s with
      x := ⟨(decrypt s.rcon #v[s.k0.value, s.k1.value, s.k2.value, s.k3.value] ⟨s.x.value, s.y.value⟩).x, true⟩
      y := ⟨(decrypt s.rcon #v[s.k0.value, s.k1.value, s.k2.value, s.k3.value] ⟨s.x.value, s.y.value⟩).y, true⟩
      resp := some ⟨.done, none⟩ }

/-! ## Laws between commands -/

/-- 20_memory.md R43: RD changes no state; it answers alike in every later state that has not faulted and whose selected register
is the same, and so whatever the host does between two RDs that writes no such register; and LD of the same value twice leaves
the state LD leaves once. While FAULT = 1 an RD is dropped (FaultedBlockDropsEveryCommand). -/
def Obligations.ReadsHaveNoSideEffectAndLoadsRepeat : Prop :=
  (∀ (sel : OpReg) (s t : State), s.fault = false → s.written sel = true → exec (.rd sel) s = .next t →
    t = { s with resp := t.resp } ∧ exec (.rd sel) t = .next t ∧
    (∀ u : State, u.fault = false → u.operand sel = s.operand sel →
      exec (.rd sel) u = .next { u with resp := t.resp }) ∧
    (∀ (between : List HostAction) (u : State), (∀ a ∈ between, mayWrite sel a = false) →
      core.run between.length (t.driven between) = .next u → u.fault = false →
      exec (.rd sel) u = .next { u with resp := t.resp })) ∧
  (∀ (sel : OpReg) (v : Word) (s t : State), s.fault = false → exec (.ld sel v) s = .next t →
    exec (.ld sel v) t = .next t)

/-- 40_mixing_box.md R88, 41_round_function.md R108, R109, 42_round_schedule.md R124, R125 (corner cases): BOXF and BOXI, ROUNDF and
ROUNDI of one step, WHITEN twice, and ENC and DEC restore every operand register, in either order. -/
def Obligations.InverseCommandsRestoreTheBlock : Prop :=
  ∀ (i j : Instr) (s t u : State),
    ((i = .boxf ∧ j = .boxi) ∨ (i = .boxi ∧ j = .boxf) ∨
      (∃ step : BitVec 4, step.toNat ≤ 9 ∧ ((i = .roundf step ∧ j = .roundi step) ∨ (i = .roundi step ∧ j = .roundf step))) ∨
      (i = .whiten ∧ j = .whiten) ∨ (i = .enc ∧ j = .dec) ∨ (i = .dec ∧ j = .enc)) →
    s.ready (readSet i) = true → exec i s = .next t → exec j t = .next u →
    u = { s with resp := some ⟨.done, none⟩ }

/-- 42_round_schedule.md section 3 (R126 is marked derived by the spec): from a ready state the ten rounds and the whitening leave
the very state ENC leaves, with every response DONE, and likewise DEC; when a key register is unwritten the two differ. -/
def Obligations.RoundCommandsEqualTheSchedule : Prop :=
  ∀ (rounds : List Instr) (whole : Instr),
    (rounds = encRounds ∧ whole = .enc) ∨ (rounds = decRounds ∧ whole = .dec) →
    (∀ (s : State) (rest : List HostAction), s.ready [.x, .y, .k0, .k1, .k2, .k3] = true →
      core.run 11 (s.driven (sendAll rounds ++ rest)) = core.run 1 (s.driven (sendInstr whole :: rest)) ∧
      ∀ n < 11, ∃ t : State, core.run (n + 1) (s.driven (sendAll rounds ++ rest)) = .next t ∧
        t.resp = some ⟨.done, none⟩) ∧
    (∀ (s : State) (rest : List HostAction), s.ready [.x, .y] = true →
      s.allWritten [.k0, .k1, .k2, .k3] = false →
      core.run 11 (s.driven (sendAll rounds ++ rest)) ≠ core.run 1 (s.driven (sendInstr whole :: rest)))

/-! ## Frames -/

/-- 10_state.md R20 to R23, R25, 43_host_transfer.md R140, R141: what every command leaves unchanged when it gives a next state,
whichever way it ends. A register other than LD's destination, or X and Y for a transforming command, keeps its value and
written bit; RD changes none; the ROM and the host's later actions stay; and unless the response is FAULT the status
registers stay. -/
def Obligations.EveryCommandKeepsWhatItDoesNotWrite : Prop :=
  ∀ (i : Instr) (s t : State), exec i s = .next t →
    (∀ sel v r, i = .ld sel v → r ≠ sel → t.operand r = s.operand r) ∧
    (∀ sel r, i = .rd sel → t.operand r = s.operand r) ∧
    (∀ r, transforms i = true → r ≠ .x → r ≠ .y → t.operand r = s.operand r) ∧
    t.rcon = s.rcon ∧ t.host = s.host ∧
    ((∀ d, t.resp ≠ some ⟨.fault, d⟩) → t.fault = s.fault ∧ t.cause = s.cause ∧ t.fcmd = s.fcmd)

/-- 43_host_transfer.md R142: an operand register changes in a step only if the host's action is a reset, an LD of that register,
or a transforming command and the register is X or Y. So the block writes the keys and C only at the host's LD. -/
def Obligations.OperandRegistersKeepTheirValue : Prop :=
  ∀ (s t : State) (r : OpReg), step s = .next t → t.operand r ≠ s.operand r →
    (∃ rest, s.host = .reset :: rest) ∨
    (∃ cmd dataIn rest, s.host = .command cmd dataIn :: rest ∧ decode cmd dataIn = .ok (.ld r dataIn)) ∨
    (∃ cmd dataIn rest i, s.host = .command cmd dataIn :: rest ∧ decode cmd dataIn = .ok i ∧
      transforms i = true ∧ (r = .x ∨ r = .y))

/-- 10_state.md R23: no step writes the ROM, reset included; only ROUNDF, ROUNDI, ENC and DEC depend on it, and the rounds on the
entry at `step mod 5` only. -/
def Obligations.RoundConstantsAreReadOnly : Prop :=
  (∀ s t : State, step s = .next t → t.rcon = s.rcon) ∧
  (∀ (i : Instr) (s t : State) (q : Rcon), (∀ a, i ≠ .roundf a ∧ i ≠ .roundi a) → i ≠ .enc → i ≠ .dec →
    exec i s = .next t → exec i { s with rcon := q } = .next { t with rcon := q }) ∧
  (∀ (a : BitVec 4) (i : Instr) (s t : State) (q : Rcon), i = .roundf a ∨ i = .roundi a →
    q[a.toNat % 5] = s.rcon[a.toNat % 5] →
    exec i s = .next t → exec i { s with rcon := q } = .next { t with rcon := q })

/-- 10_state.md R30: the registers a command writes and its response are a function of the command and of the registers it
reads (with their written bits, FAULT, and the constant table), and of nothing else in the state. -/
def Obligations.ResultsDependOnlyOnTheReadSet : Prop :=
  ∀ (i : Instr) (s t s' t' : State),
    s.fault = t.fault → s.rcon = t.rcon → (∀ r ∈ readSet i, s.operand r = t.operand r) →
    exec i s = .next s' → exec i t = .next t' →
    s'.resp = t'.resp ∧
    (∀ sel v, i = .ld sel v → s.fault = false → s'.operand sel = t'.operand sel) ∧
    (transforms i = true → s'.block = t'.block)

/-! ## Faults -/

/-- 60_exceptions.md R163: a legal command raises UNINIT_READ exactly when a register of its read set is unwritten, and the
read sets are the table's. -/
def Obligations.UninitReadExactlyOnUnwrittenRegisters : Prop :=
  (∀ (i : Instr) (s t : State), i.wf = true → s.fault = false → exec i s = .next t →
    ((t.fault = true ∧ t.cause = .uninitRead) ↔ ∃ r ∈ readSet i, s.written r = false)) ∧
  (∀ sel v, readSet (.ld sel v) = []) ∧
  (∀ sel, readSet (.rd sel) = [sel]) ∧
  readSet .boxf = [.x, .y, .c] ∧ readSet .boxi = [.x, .y, .c] ∧
  (∀ a : BitVec 4, a.toNat % 2 = 0 →
    readSet (.roundf a) = [.x, .y, .k0, .k1] ∧ readSet (.roundi a) = [.x, .y, .k0, .k1]) ∧
  (∀ a : BitVec 4, a.toNat % 2 = 1 →
    readSet (.roundf a) = [.x, .y, .k2, .k3] ∧ readSet (.roundi a) = [.x, .y, .k2, .k3]) ∧
  readSet .whiten = [.x, .y, .k0, .k1] ∧
  readSet .enc = [.x, .y, .k0, .k1, .k2, .k3] ∧ readSet .dec = [.x, .y, .k0, .k1, .k2, .k3]

/-- 60_exceptions.md R164: the order in which every command is processed; the first case that applies decides. -/
def Obligations.CommandsAreProcessedInOrder : Prop :=
  ∀ (s : State) (cmd dataIn : Word) (rest : List HostAction), s.host = .command cmd dataIn :: rest →
    (s.fault = true → step s = .next { s with host := rest, resp := some ⟨.dropped, none⟩ }) ∧
    (s.fault = false → legal cmd = false →
      step s = .next { s with
        host := rest, fault := true, cause := .illegalCommand, fcmd := cmd, resp := some ⟨.fault, none⟩ }) ∧
    (s.fault = false → legal cmd = true → ∃ i, decode cmd dataIn = .ok i ∧
      (s.allWritten (readSet i) = false →
        step s = .next { s with
          host := rest, fault := true, cause := .uninitRead, fcmd := cmd, resp := some ⟨.fault, none⟩ }) ∧
      (s.allWritten (readSet i) = true →
        ∃ t d, step s = .next t ∧ exec i (s.driven rest) = .next t ∧ t.fault = false ∧ t.resp = some ⟨.done, d⟩))

/-- 60_exceptions.md R165: a command that faults changes no operand register and no written bit. -/
def Obligations.FaultsArePrecise : Prop :=
  (∀ (s t : State) (cmd dataIn : Word) (rest : List HostAction) (d : Option Word),
    s.host = .command cmd dataIn :: rest → step s = .next t → t.resp = some ⟨.fault, d⟩ →
    ∀ r, t.operand r = s.operand r) ∧
  (∀ (i : Instr) (s t : State) (d : Option Word), exec i s = .next t → t.resp = some ⟨.fault, d⟩ →
    ∀ r, t.operand r = s.operand r)

/-- 60_exceptions.md R166, R161: a fault sets FAULT, CAUSE to 1 or 2 and FCMD to the whole command word, answers
(FAULT, none), changes nothing else, and shows on the outputs. -/
def Obligations.FaultEntryRecordsCauseAndCommand : Prop :=
  ∀ (s t : State) (cmd dataIn : Word) (rest : List HostAction) (d : Option Word),
    s.host = .command cmd dataIn :: rest → step s = .next t → t.resp = some ⟨.fault, d⟩ →
    s.fault = false ∧
    (∃ cause, (cause = .illegalCommand ∨ cause = .uninitRead) ∧
      t = { s with host := rest, fault := true, cause := cause, fcmd := cmd, resp := some ⟨.fault, none⟩ }) ∧
    faultOut t = 1#1 ∧ (causeOut t = 1#2 ∨ causeOut t = 2#2) ∧ fcmdOut t = cmd

/-- 60_exceptions.md R167: while FAULT = 1 a command changes no state at all and is answered (DROPPED, none); so however many
commands follow, the first fault since reset stays the one recorded. -/
def Obligations.FaultedBlockDropsEveryCommand : Prop :=
  (∀ (i : Instr) (s : State), s.fault = true → exec i s = .next { s with resp := some ⟨.dropped, none⟩ }) ∧
  (∀ (s : State) (cmd dataIn : Word) (rest : List HostAction), s.fault = true → s.host = .command cmd dataIn :: rest →
    step s = .next { s with host := rest, resp := some ⟨.dropped, none⟩ }) ∧
  (∀ (n : Nat) (s u : State), s.fault = true → commandsOnly s.host = true → core.run n s = .next u →
    u.fault = true ∧ u.cause = s.cause ∧ u.fcmd = s.fcmd ∧ ∀ r, u.operand r = s.operand r)

/-- 60_exceptions.md R168: only a reset leaves the faulted state, and a command while faulted does not fault again. -/
def Obligations.OnlyResetLeavesTheFaultedState : Prop :=
  ∀ s t : State, s.fault = true → step s = .next t →
    (t.fault = false ↔ ∃ rest, s.host = .reset :: rest) ∧
    (∀ cmd dataIn rest, s.host = .command cmd dataIn :: rest → t.resp = some ⟨.dropped, none⟩)

/-- 60_exceptions.md R167 (the premise of claims about runs): if the host only sends commands to a block that has not faulted, then
every response is DONE exactly when FAULT = 0 at the end. -/
def Obligations.AllResponsesDoneExactlyWhenNotFaulted : Prop :=
  ∀ s : State, s.fault = false → commandsOnly s.host = true →
    ((∀ r ∈ (observe s.host.length s).1, r.status = .done) ↔ (observe s.host.length s).2.fault = false)

/-! ## Reset -/

/-- 70_reset_and_hazards.md R180: reset clears every written bit, FAULT, CAUSE and FCMD and keeps the ROM; power-up leaves the same; no
other step clears a written bit, or, once the block has faulted, FAULT, CAUSE or FCMD. -/
def Obligations.ResetClearsAndNothingElseDoes : Prop :=
  (∀ (s : State) (rest : List HostAction), s.host = .reset :: rest →
    ∃ t, step s = .next t ∧ (∀ r, t.written r = false) ∧ t.fault = false ∧ t.cause = .none ∧
      t.fcmd = 0x00000000#32 ∧ t.rcon = s.rcon ∧ t.host = rest) ∧
  ((∀ r, State.reset.written r = false) ∧ State.reset.fault = false ∧ State.reset.cause = .none ∧
    State.reset.fcmd = 0x00000000#32) ∧
  (∀ s t : State, step s = .next t → (∀ rest, s.host ≠ .reset :: rest) →
    (s.fault = true → t.fault = true ∧ t.cause = s.cause ∧ t.fcmd = s.fcmd) ∧ ∀ r, s.written r = true → t.written r = true)

/-- 70_reset_and_hazards.md R182, 60_exceptions.md R176: with no command on its port the block waits and holds its state. That
such a wait is a step is the model's choice (log 1). -/
def Obligations.IdleBlockHoldsItsState : Prop :=
  (∀ s : State, s.host = [] → step s = .next s) ∧ step State.reset = .next State.reset

/-! ## The whole machine -/

/-- 00_scope.md R14, 30_encoding.md R60: when the host's next action is a command that decodes to a well-formed instruction, the step
is that instruction run on the state whose later host actions remain. -/
def Obligations.StepRunsTheDecodedCommand : Prop :=
  ∀ (s : State) (cmd dataIn : Word) (rest : List HostAction) (i : Instr),
    s.host = .command cmd dataIn :: rest → decode cmd dataIn = .ok i → i.wf = true →
    step s = exec i (s.driven rest)

/-- 00_scope.md R14: the step is total, and a command always returns a response. -/
def Obligations.EveryCommandIsAnswered : Prop :=
  (∀ s : State, ∃ t, step s = .next t) ∧
  (∀ (s : State) (cmd dataIn : Word) (rest : List HostAction), s.host = .command cmd dataIn :: rest →
    ∃ t r, step s = .next t ∧ t.resp = some r ∧ t.host = rest)

/-- 20_memory.md R46: the host's actions mean the composition of the steps over them, in order. -/
def Obligations.ActionSequencesCompose : Prop :=
  ∀ (a b : List HostAction) (s t : State), core.run a.length (s.driven a) = .next t →
    core.run (a.length + b.length) (s.driven (a ++ b)) = core.run b.length (t.driven b)

/-- 10_state.md R25, 60_exceptions.md R161 to R167: from every state whose fault record tells the truth, a step gives a state whose
fault record tells the truth. -/
def Obligations.StepKeepsTheFaultRecordSound : Prop :=
  ∀ s t : State, s.faultRecordSound = true → step s = .next t → t.faultRecordSound = true

/-- The fault record tells the truth right after reset (10_state.md R31). -/
def Obligations.ResetHasASoundFaultRecord : Prop :=
  State.reset.faultRecordSound = true

/-- 10_state.md R24: no command can observe the value of an unwritten register: states that differ only in such values give
steps that differ only in such values, so no later response or output differs. This is what makes the reset values of log 4
harmless. -/
def Obligations.UnwrittenValuesAreNeverObserved : Prop :=
  ∀ s t s' t' : State, s.forgetUnwritten = t.forgetUnwritten → step s = .next s' → step t = .next t' →
    s'.forgetUnwritten = t'.forgetUnwritten

/-! ## The host's conventions -/

/-- 43_host_transfer.md R144 to R147: the block representations and their inverses, and the key from its bytes. -/
def Obligations.HostMappingsAreLittleEndian : Prop :=
  (∀ b : BitVec 64, (blockOfInt b).x = b.extractLsb' 0 32 ∧ (blockOfInt b).y = b.extractLsb' 32 32 ∧
    intOfBlock (blockOfInt b) = b) ∧
  (∀ w : Vector Word 2, blockOfPair w = ⟨w[0], w[1]⟩ ∧ pairOfBlock (blockOfPair w) = w) ∧
  (∀ (v : Vector Byte 8) (i : Nat) (h : i < 4),
    (blockOfBytes v).x.extractLsb' (8 * i) 8 = v[i] ∧ (blockOfBytes v).y.extractLsb' (8 * i) 8 = v[4 + i] ∧
    bytesOfBlock (blockOfBytes v) = v) ∧
  (∀ (kb : Vector Byte 16) (i j : Nat) (hi : i < 4) (hj : j < 4),
    (keyOfBytes kb)[i].extractLsb' (8 * j) 8 = kb[4 * i + j])

/-- 43_host_transfer.md section 3 (R148 is marked derived by the spec): a 64-bit value, its word pair and its eight little-endian
bytes load the same block, and a block written out as a word pair or as bytes gives the words or the bytes of the integer it is
written out as. -/
def Obligations.RepresentationsAgree : Prop :=
  (∀ b : BitVec 64,
    blockOfPair #v[b.extractLsb' 0 32, b.extractLsb' 32 32] = blockOfInt b ∧
    blockOfBytes (Vector.ofFn fun i : Fin 8 => b.extractLsb' (8 * i) 8) = blockOfInt b) ∧
  (∀ blk : Block, (pairOfBlock blk)[0] = (intOfBlock blk).extractLsb' 0 32 ∧
    (pairOfBlock blk)[1] = (intOfBlock blk).extractLsb' 32 32) ∧
  (∀ (blk : Block) (i : Nat) (h : i < 8), (bytesOfBlock blk)[i] = (intOfBlock blk).extractLsb' (8 * i) 8)

/-- 43_host_transfer.md section 2 (R143 is marked derived by the spec): on a block that has not faulted, the host's procedure for one
call is answered DONE throughout, and its two reads return the words of the cipher function. -/
def Obligations.HostProcedureReturnsTheCipherWords : Prop :=
  ∀ (s : State) (k : Key) (b : Block), s.fault = false →
    (observe 9 (s.driven (sendAll (encryptCall k b)))).1 =
      List.replicate 7 ⟨.done, none⟩ ++
        [⟨.done, some (encrypt s.rcon k b).x⟩, ⟨.done, some (encrypt s.rcon k b).y⟩] ∧
    (observe 9 (s.driven (sendAll (decryptCall k b)))).1 =
      List.replicate 7 ⟨.done, none⟩ ++
        [⟨.done, some (decrypt s.rcon k b).x⟩, ⟨.done, some (decrypt s.rcon k b).y⟩]
end

