-- ==== Sys2Proof/Laws/Decode.lean ====
section
/-! SUPPORT. What the fields of a command word are, and how a word is put together again from its fields. -/

namespace Sys2Proof

/-! ## The fields of the word a format builds (30_encoding.md R61) -/

/-- The number a command word is: `A` from bit 8 up and `OP` below. -/
theorem commandWord_toNat (a : BitVec 4) (op : BitVec 8) :
    (commandWord a op).toNat = a.toNat * 2 ^ 8 + op.toNat := by
  have ha := a.isLt
  have ho := op.isLt
  unfold commandWord
  rw [BitVec.toNat_append, BitVec.toNat_append, ← Nat.shiftLeft_add_eq_or_of_lt ho]
  simp [Nat.shiftLeft_eq]

@[simp] theorem opField_commandWord (a : BitVec 4) (op : BitVec 8) : opField (commandWord a op) = op := by
  apply BitVec.eq_of_toNat_eq
  have ho := op.isLt
  simp [opField, commandWord_toNat]
  omega

@[simp] theorem argField_commandWord (a : BitVec 4) (op : BitVec 8) : argField (commandWord a op) = a := by
  apply BitVec.eq_of_toNat_eq
  have ha := a.isLt
  have ho := op.isLt
  simp [argField, commandWord_toNat, Nat.shiftRight_eq_div_pow]
  omega

@[simp] theorem rsvField_commandWord (a : BitVec 4) (op : BitVec 8) : rsvField (commandWord a op) = 0#20 := by
  apply BitVec.eq_of_toNat_eq
  have ha := a.isLt
  have ho := op.isLt
  simp [rsvField, commandWord_toNat, Nat.shiftRight_eq_div_pow]
  omega

/-- A word with zero reserved bits is the word of its two other fields. -/
theorem commandWord_fields {cmd : Word} (h : rsvField cmd = 0#20) :
    commandWord (argField cmd) (opField cmd) = cmd := by
  apply BitVec.eq_of_toNat_eq
  have hr := congrArg BitVec.toNat h
  rw [commandWord_toNat]
  simp [rsvField, argField, opField, Nat.shiftRight_eq_div_pow] at hr ⊢
  omega

/-! ## Selectors and round indexes -/

@[simp] theorem selected_selectorOf (r : OpReg) : selected (selectorOf r) = some r := by
  cases r <;> rfl

theorem selectorOf_of_selected {sel : BitVec 4} {r : OpReg} (h : selected sel = some r) : selectorOf r = sel := by
  revert h
  revert sel
  cases r <;> decide

theorem stepInRange_iff {step : BitVec 4} : stepInRange step = true ↔ step.toNat ≤ 9 := by
  simp [stepInRange, Config.rounds, Nat.lt_succ_iff]

end Sys2Proof
end

