-- ==== Sys2Proof/Laws/State.lean ====
section
/-! SUPPORT. What each update of the state leaves in each field: one lemma per field per update, so that no later proof
unfolds a record update. -/

namespace Sys2Proof.Machine

/-! ## Writing a register -/

@[simp] theorem State.operand_setReg (s : State) (n r : OpReg) (v : Word) :
    (s.setReg n v).operand r = if r = n then ⟨v, true⟩ else s.operand r := by cases n <;> cases r <;> rfl

@[simp] theorem State.reg_setReg (s : State) (n r : OpReg) (v : Word) :
    (s.setReg n v).reg r = if r = n then v else s.reg r := by cases n <;> cases r <;> rfl

@[simp] theorem State.written_setReg (s : State) (n r : OpReg) (v : Word) :
    (s.setReg n v).written r = (decide (r = n) || s.written r) := by cases n <;> cases r <;> rfl

@[simp] theorem State.fault_setReg (s : State) (n : OpReg) (v : Word) :
    (s.setReg n v).fault = s.fault := by cases n <;> rfl

@[simp] theorem State.cause_setReg (s : State) (n : OpReg) (v : Word) :
    (s.setReg n v).cause = s.cause := by cases n <;> rfl

@[simp] theorem State.fcmd_setReg (s : State) (n : OpReg) (v : Word) :
    (s.setReg n v).fcmd = s.fcmd := by cases n <;> rfl

@[simp] theorem State.rcon_setReg (s : State) (n : OpReg) (v : Word) :
    (s.setReg n v).rcon = s.rcon := by cases n <;> rfl

@[simp] theorem State.resp_setReg (s : State) (n : OpReg) (v : Word) :
    (s.setReg n v).resp = s.resp := by cases n <;> rfl

@[simp] theorem State.host_setReg (s : State) (n : OpReg) (v : Word) :
    (s.setReg n v).host = s.host := by cases n <;> rfl


/-! ## Writing the block -/

@[simp] theorem State.x_setBlock (s : State) (b : Block) :
    (s.setBlock b).x = ⟨b.x, true⟩ := rfl

@[simp] theorem State.y_setBlock (s : State) (b : Block) :
    (s.setBlock b).y = ⟨b.y, true⟩ := rfl

@[simp] theorem State.c_setBlock (s : State) (b : Block) :
    (s.setBlock b).c = s.c := rfl

@[simp] theorem State.k0_setBlock (s : State) (b : Block) :
    (s.setBlock b).k0 = s.k0 := rfl

@[simp] theorem State.k1_setBlock (s : State) (b : Block) :
    (s.setBlock b).k1 = s.k1 := rfl

@[simp] theorem State.k2_setBlock (s : State) (b : Block) :
    (s.setBlock b).k2 = s.k2 := rfl

@[simp] theorem State.k3_setBlock (s : State) (b : Block) :
    (s.setBlock b).k3 = s.k3 := rfl

@[simp] theorem State.fault_setBlock (s : State) (b : Block) :
    (s.setBlock b).fault = s.fault := rfl

@[simp] theorem State.cause_setBlock (s : State) (b : Block) :
    (s.setBlock b).cause = s.cause := rfl

@[simp] theorem State.fcmd_setBlock (s : State) (b : Block) :
    (s.setBlock b).fcmd = s.fcmd := rfl

@[simp] theorem State.rcon_setBlock (s : State) (b : Block) :
    (s.setBlock b).rcon = s.rcon := rfl

@[simp] theorem State.resp_setBlock (s : State) (b : Block) :
    (s.setBlock b).resp = s.resp := rfl

@[simp] theorem State.host_setBlock (s : State) (b : Block) :
    (s.setBlock b).host = s.host := rfl

@[simp] theorem State.operand_setBlock (s : State) (b : Block) (r : OpReg) :
    (s.setBlock b).operand r = if r = .x then ⟨b.x, true⟩ else if r = .y then ⟨b.y, true⟩ else s.operand r := by
  cases r <;> rfl

@[simp] theorem State.block_setBlock (s : State) (b : Block) :
    (s.setBlock b).block = b := rfl

@[simp] theorem State.key_setBlock (s : State) (b : Block) :
    (s.setBlock b).key = s.key := rfl


/-! ## The three uses of a response -/

@[simp] theorem State.done_eq (s : State) :
    s.done = s.respond .done none := rfl

@[simp] theorem State.doneWith_eq (s : State) (v : Word) :
    s.doneWith v = s.respond .done (some v) := rfl

@[simp] theorem State.drop_eq (s : State) :
    s.drop = s.respond .dropped none := rfl


/-! ## Responding -/

@[simp] theorem State.x_respond (s : State) (st : Status) (d : Option Word) :
    (s.respond st d).x = s.x := rfl

@[simp] theorem State.y_respond (s : State) (st : Status) (d : Option Word) :
    (s.respond st d).y = s.y := rfl

@[simp] theorem State.c_respond (s : State) (st : Status) (d : Option Word) :
    (s.respond st d).c = s.c := rfl

@[simp] theorem State.k0_respond (s : State) (st : Status) (d : Option Word) :
    (s.respond st d).k0 = s.k0 := rfl

@[simp] theorem State.k1_respond (s : State) (st : Status) (d : Option Word) :
    (s.respond st d).k1 = s.k1 := rfl

@[simp] theorem State.k2_respond (s : State) (st : Status) (d : Option Word) :
    (s.respond st d).k2 = s.k2 := rfl

@[simp] theorem State.k3_respond (s : State) (st : Status) (d : Option Word) :
    (s.respond st d).k3 = s.k3 := rfl

@[simp] theorem State.operand_respond (s : State) (st : Status) (d : Option Word) (n : OpReg) :
    (s.respond st d).operand n = s.operand n := by cases n <;> rfl

@[simp] theorem State.reg_respond (s : State) (st : Status) (d : Option Word) (n : OpReg) :
    (s.respond st d).reg n = s.reg n := by cases n <;> rfl

@[simp] theorem State.written_respond (s : State) (st : Status) (d : Option Word) (n : OpReg) :
    (s.respond st d).written n = s.written n := by cases n <;> rfl

@[simp] theorem State.allWritten_respond (s : State) (st : Status) (d : Option Word) (reads : List OpReg) :
    (s.respond st d).allWritten reads = s.allWritten reads := by
  simp [State.allWritten, List.all_eq]

@[simp] theorem State.fault_respond (s : State) (st : Status) (d : Option Word) :
    (s.respond st d).fault = s.fault := rfl

@[simp] theorem State.cause_respond (s : State) (st : Status) (d : Option Word) :
    (s.respond st d).cause = s.cause := rfl

@[simp] theorem State.fcmd_respond (s : State) (st : Status) (d : Option Word) :
    (s.respond st d).fcmd = s.fcmd := rfl

@[simp] theorem State.rcon_respond (s : State) (st : Status) (d : Option Word) :
    (s.respond st d).rcon = s.rcon := rfl

@[simp] theorem State.resp_respond (s : State) (st : Status) (d : Option Word) :
    (s.respond st d).resp = some ⟨st, d⟩ := rfl

@[simp] theorem State.host_respond (s : State) (st : Status) (d : Option Word) :
    (s.respond st d).host = s.host := rfl


/-! ## The host's actions -/

@[simp] theorem State.x_driven (s : State) (l : List HostAction) :
    (s.driven l).x = s.x := rfl

@[simp] theorem State.y_driven (s : State) (l : List HostAction) :
    (s.driven l).y = s.y := rfl

@[simp] theorem State.c_driven (s : State) (l : List HostAction) :
    (s.driven l).c = s.c := rfl

@[simp] theorem State.k0_driven (s : State) (l : List HostAction) :
    (s.driven l).k0 = s.k0 := rfl

@[simp] theorem State.k1_driven (s : State) (l : List HostAction) :
    (s.driven l).k1 = s.k1 := rfl

@[simp] theorem State.k2_driven (s : State) (l : List HostAction) :
    (s.driven l).k2 = s.k2 := rfl

@[simp] theorem State.k3_driven (s : State) (l : List HostAction) :
    (s.driven l).k3 = s.k3 := rfl

@[simp] theorem State.operand_driven (s : State) (l : List HostAction) (n : OpReg) :
    (s.driven l).operand n = s.operand n := by cases n <;> rfl

@[simp] theorem State.reg_driven (s : State) (l : List HostAction) (n : OpReg) :
    (s.driven l).reg n = s.reg n := by cases n <;> rfl

@[simp] theorem State.written_driven (s : State) (l : List HostAction) (n : OpReg) :
    (s.driven l).written n = s.written n := by cases n <;> rfl

@[simp] theorem State.allWritten_driven (s : State) (l : List HostAction) (reads : List OpReg) :
    (s.driven l).allWritten reads = s.allWritten reads := by
  simp [State.allWritten, List.all_eq]

@[simp] theorem State.fault_driven (s : State) (l : List HostAction) :
    (s.driven l).fault = s.fault := rfl

@[simp] theorem State.cause_driven (s : State) (l : List HostAction) :
    (s.driven l).cause = s.cause := rfl

@[simp] theorem State.fcmd_driven (s : State) (l : List HostAction) :
    (s.driven l).fcmd = s.fcmd := rfl

@[simp] theorem State.rcon_driven (s : State) (l : List HostAction) :
    (s.driven l).rcon = s.rcon := rfl

@[simp] theorem State.resp_driven (s : State) (l : List HostAction) :
    (s.driven l).resp = s.resp := rfl

@[simp] theorem State.host_driven (s : State) (l : List HostAction) :
    (s.driven l).host = l := rfl


/-! ## Entering the fault state -/

@[simp] theorem State.x_raiseFault (s : State) (cause : Cause) (cmd : Word) :
    (s.raiseFault cause cmd).x = s.x := rfl

@[simp] theorem State.y_raiseFault (s : State) (cause : Cause) (cmd : Word) :
    (s.raiseFault cause cmd).y = s.y := rfl

@[simp] theorem State.c_raiseFault (s : State) (cause : Cause) (cmd : Word) :
    (s.raiseFault cause cmd).c = s.c := rfl

@[simp] theorem State.k0_raiseFault (s : State) (cause : Cause) (cmd : Word) :
    (s.raiseFault cause cmd).k0 = s.k0 := rfl

@[simp] theorem State.k1_raiseFault (s : State) (cause : Cause) (cmd : Word) :
    (s.raiseFault cause cmd).k1 = s.k1 := rfl

@[simp] theorem State.k2_raiseFault (s : State) (cause : Cause) (cmd : Word) :
    (s.raiseFault cause cmd).k2 = s.k2 := rfl

@[simp] theorem State.k3_raiseFault (s : State) (cause : Cause) (cmd : Word) :
    (s.raiseFault cause cmd).k3 = s.k3 := rfl

@[simp] theorem State.operand_raiseFault (s : State) (cause : Cause) (cmd : Word) (n : OpReg) :
    (s.raiseFault cause cmd).operand n = s.operand n := by cases n <;> rfl

@[simp] theorem State.reg_raiseFault (s : State) (cause : Cause) (cmd : Word) (n : OpReg) :
    (s.raiseFault cause cmd).reg n = s.reg n := by cases n <;> rfl

@[simp] theorem State.written_raiseFault (s : State) (cause : Cause) (cmd : Word) (n : OpReg) :
    (s.raiseFault cause cmd).written n = s.written n := by cases n <;> rfl

@[simp] theorem State.allWritten_raiseFault (s : State) (cause : Cause) (cmd : Word) (reads : List OpReg) :
    (s.raiseFault cause cmd).allWritten reads = s.allWritten reads := by
  simp [State.allWritten, List.all_eq]

@[simp] theorem State.fault_raiseFault (s : State) (cause : Cause) (cmd : Word) :
    (s.raiseFault cause cmd).fault = true := rfl

@[simp] theorem State.cause_raiseFault (s : State) (cause : Cause) (cmd : Word) :
    (s.raiseFault cause cmd).cause = cause := rfl

@[simp] theorem State.fcmd_raiseFault (s : State) (cause : Cause) (cmd : Word) :
    (s.raiseFault cause cmd).fcmd = cmd := rfl

@[simp] theorem State.rcon_raiseFault (s : State) (cause : Cause) (cmd : Word) :
    (s.raiseFault cause cmd).rcon = s.rcon := rfl

@[simp] theorem State.resp_raiseFault (s : State) (cause : Cause) (cmd : Word) :
    (s.raiseFault cause cmd).resp = some ⟨.fault, none⟩ := rfl

@[simp] theorem State.host_raiseFault (s : State) (cause : Cause) (cmd : Word) :
    (s.raiseFault cause cmd).host = s.host := rfl


/-! ## Reset -/

@[simp] theorem State.x_resetBlock (s : State) :
    s.resetBlock.x = OperandReg.unwritten := rfl

@[simp] theorem State.y_resetBlock (s : State) :
    s.resetBlock.y = OperandReg.unwritten := rfl

@[simp] theorem State.c_resetBlock (s : State) :
    s.resetBlock.c = OperandReg.unwritten := rfl

@[simp] theorem State.k0_resetBlock (s : State) :
    s.resetBlock.k0 = OperandReg.unwritten := rfl

@[simp] theorem State.k1_resetBlock (s : State) :
    s.resetBlock.k1 = OperandReg.unwritten := rfl

@[simp] theorem State.k2_resetBlock (s : State) :
    s.resetBlock.k2 = OperandReg.unwritten := rfl

@[simp] theorem State.k3_resetBlock (s : State) :
    s.resetBlock.k3 = OperandReg.unwritten := rfl

@[simp] theorem State.written_resetBlock (s : State) (n : OpReg) :
    s.resetBlock.written n = false := by cases n <;> rfl

@[simp] theorem State.fault_resetBlock (s : State) :
    s.resetBlock.fault = false := rfl

@[simp] theorem State.cause_resetBlock (s : State) :
    s.resetBlock.cause = Cause.none := rfl

@[simp] theorem State.fcmd_resetBlock (s : State) :
    s.resetBlock.fcmd = 0x00000000#32 := rfl

@[simp] theorem State.rcon_resetBlock (s : State) :
    s.resetBlock.rcon = s.rcon := rfl

@[simp] theorem State.resp_resetBlock (s : State) :
    s.resetBlock.resp = none := rfl

@[simp] theorem State.host_resetBlock (s : State) :
    s.resetBlock.host = s.host := rfl

end Sys2Proof.Machine
end

