-- ==== Sys2Proof/Laws/Ops.lean ====
section
/-! SUPPORT. What each shared operation can do, said once: processing a command, running an instruction, taking the
host's next action, and one step. -/

namespace Sys2Proof.Machine

/-! ## Processing a command (60_exceptions.md R164) -/

theorem State.process_of_fault {s : State} (cmd : Word) (reads : List OpReg) (perform : State → State)
    (h : s.fault = true) : s.process cmd reads perform = s.drop := by
  simp [State.process, h]

theorem State.process_of_illegal {s : State} {cmd : Word} (reads : List OpReg) (perform : State → State)
    (hf : s.fault = false) (hl : legal cmd = false) :
    s.process cmd reads perform = s.raiseFault .illegalCommand cmd := by
  simp [State.process, hf, hl]

theorem State.process_of_unwritten {s : State} {cmd : Word} {reads : List OpReg} (perform : State → State)
    (hf : s.fault = false) (hl : legal cmd = true) (hw : s.allWritten reads = false) :
    s.process cmd reads perform = s.raiseFault .uninitRead cmd := by
  simp [State.process, hf, hl, hw]

theorem State.process_of_ready {s : State} {cmd : Word} {reads : List OpReg} (perform : State → State)
    (hf : s.fault = false) (hl : legal cmd = true) (hw : s.allWritten reads = true) :
    s.process cmd reads perform = perform s := by
  simp [State.process, hf, hl, hw]

/-- Everything `process` can do. -/
theorem State.process_cases (s : State) (cmd : Word) (reads : List OpReg) (perform : State → State) :
    (s.fault = true ∧ s.process cmd reads perform = s.drop) ∨
    (s.fault = false ∧ legal cmd = false ∧ s.process cmd reads perform = s.raiseFault .illegalCommand cmd) ∨
    (s.fault = false ∧ legal cmd = true ∧ s.allWritten reads = false ∧
      s.process cmd reads perform = s.raiseFault .uninitRead cmd) ∨
    (s.fault = false ∧ legal cmd = true ∧ s.allWritten reads = true ∧ s.process cmd reads perform = perform s) := by
  cases hf : s.fault <;> cases hl : legal cmd <;> cases hw : s.allWritten reads <;> simp [State.process, hf, hl, hw]

/-- A faulted or illegal word is handled by `process` exactly as `rejectIllegal` says, whatever it would do. -/
theorem State.rejectIllegal_eq_process {s : State} {cmd : Word} (reads : List OpReg) (perform : State → State)
    (hl : legal cmd = false) : s.rejectIllegal cmd = s.process cmd reads perform := by
  cases hf : s.fault <;> simp [State.process, State.rejectIllegal, hf, hl]

/-! ## Running an instruction -/

/-- What each instruction does once it is processed: the body of its own rule. -/
def performs : Instr → State → State
  | .ld sel dataIn, t => (t.setReg sel dataIn).done
  | .rd sel, t => t.doneWith (t.reg sel)
  | .boxf, t => (t.setBlock (boxFwd t.block (t.reg .c))).done
  | .boxi, t => (t.setBlock (boxInv t.block (t.reg .c))).done
  | .roundf step, t => (t.setBlock (roundFwd t.rcon t.key step.toNat t.block)).done
  | .roundi step, t => (t.setBlock (roundInv t.rcon t.key step.toNat t.block)).done
  | .whiten, t => (t.setBlock (whiten t.block t.key)).done
  | .enc, t => (t.setBlock (encrypt t.rcon t.key t.block)).done
  | .dec, t => (t.setBlock (decrypt t.rcon t.key t.block)).done

/-- Every instruction is its own rule, processed in the order of 60_exceptions.md R164. -/
theorem exec_eq_process (i : Instr) (s : State) :
    exec i s = .next (s.process (encodeCmd i) (readSet i) (performs i)) := by
  cases i <;> rfl

/-! ## Taking the host's next action -/

theorem fetch_idle {s : State} (h : s.host = []) : fetch s = .settled s := by
  simp [fetch, h]

theorem fetch_reset {s : State} {rest : List HostAction} (h : s.host = .reset :: rest) :
    fetch s = .settled (s.driven rest).resetBlock := by
  simp [fetch, h]

theorem fetch_legal {s : State} {cmd dataIn : Word} {rest : List HostAction} {i : Instr}
    (h : s.host = .command cmd dataIn :: rest) (hd : decode cmd dataIn = .ok i) :
    fetch s = .command i (s.driven rest) := by
  simp [fetch, h, hd]

theorem fetch_illegal {s : State} {cmd dataIn : Word} {rest : List HostAction} {e : DecodeError}
    (h : s.host = .command cmd dataIn :: rest) (hd : decode cmd dataIn = .error e) :
    fetch s = .settled ((s.driven rest).rejectIllegal cmd) := by
  simp [fetch, h, hd]

/-- Everything one step can do. -/
theorem step_cases (s : State) :
    (s.host = [] ∧ step s = .next s) ∨
    (∃ rest, s.host = .reset :: rest ∧ step s = .next (s.driven rest).resetBlock) ∨
    (∃ cmd dataIn rest e, s.host = .command cmd dataIn :: rest ∧ decode cmd dataIn = .error e ∧
      step s = .next ((s.driven rest).rejectIllegal cmd)) ∨
    (∃ cmd dataIn rest i, s.host = .command cmd dataIn :: rest ∧ decode cmd dataIn = .ok i ∧
      step s = exec i (s.driven rest)) := by
  match h : s.host with
  | [] => simp [step, fetch_idle h]
  | .reset :: rest => simp [step, fetch_reset h]
  | .command cmd dataIn :: rest =>
    match hd : decode cmd dataIn with
    | .error e => simp [step, fetch_illegal h hd, hd]
    | .ok i => simp [step, fetch_legal h hd, hd]

end Sys2Proof.Machine
end

