-- ==== Sys2Proof/Laws/PerInstr.lean ====
section
/-! SUPPORT. One statement about every instruction as syntax, with one lemma per constructor: its command word is legal
(30_encoding.md R69) exactly when the term is well-formed. -/

namespace Sys2Proof.Laws.Legality

/-- The command word of `i` is legal exactly when `i` is well-formed. -/
def Statement (i : Instr) : Prop := legal (encodeCmd i) = i.wf

theorem ld (sel : OpReg) (dataIn : Word) : Statement (.ld sel dataIn) := by
  show legal (commandWord (selectorOf sel) 0x01#8) = true
  cases sel <;> rfl

theorem rd (sel : OpReg) : Statement (.rd sel) := by
  unfold Statement
  cases sel <;> rfl

theorem boxf : Statement .boxf := rfl

theorem boxi : Statement .boxi := rfl

theorem roundf (step : BitVec 4) : Statement (.roundf step) := by
  unfold Statement
  revert step
  decide

theorem roundi (step : BitVec 4) : Statement (.roundi step) := by
  unfold Statement
  revert step
  decide

theorem whiten : Statement .whiten := rfl

theorem enc : Statement .enc := rfl

theorem dec : Statement .dec := rfl

end Sys2Proof.Laws.Legality
end

