-- ==== Sys2Proof/Laws/Exec.lean ====
section
/-! SUPPORT. Everything `exec` can do, and what the body of a command's rule leaves alone. -/

namespace Sys2Proof.Machine

/-- The command word of an instruction is legal exactly when the instruction is well-formed. -/
theorem legal_encodeCmd (i : Instr) : legal (encodeCmd i) = i.wf := by
  cases i with
  | ld sel dataIn => exact Laws.Legality.ld sel dataIn
  | rd sel => exact Laws.Legality.rd sel
  | boxf => exact Laws.Legality.boxf
  | boxi => exact Laws.Legality.boxi
  | roundf step => exact Laws.Legality.roundf step
  | roundi step => exact Laws.Legality.roundi step
  | whiten => exact Laws.Legality.whiten
  | enc => exact Laws.Legality.enc
  | dec => exact Laws.Legality.dec

/-- The four ways an instruction ends (60_exceptions.md R164). -/
theorem exec_cases {i : Instr} {s t : State} (h : exec i s = .next t) :
    (s.fault = true ∧ t = s.drop) ∨
    (s.fault = false ∧ i.wf = false ∧ t = s.raiseFault .illegalCommand (encodeCmd i)) ∨
    (s.fault = false ∧ i.wf = true ∧ s.allWritten (readSet i) = false ∧ t = s.raiseFault .uninitRead (encodeCmd i)) ∨
    (s.fault = false ∧ i.wf = true ∧ s.allWritten (readSet i) = true ∧ t = performs i s) := by
  rw [exec_eq_process] at h
  injection h with h
  rw [← legal_encodeCmd, ← h]
  exact State.process_cases s (encodeCmd i) (readSet i) (performs i)

/-! ## The body of a command's rule -/

@[simp] theorem fault_performs (i : Instr) (s : State) : (performs i s).fault = s.fault := by
  cases i <;> simp [performs]

@[simp] theorem cause_performs (i : Instr) (s : State) : (performs i s).cause = s.cause := by
  cases i <;> simp [performs]

@[simp] theorem fcmd_performs (i : Instr) (s : State) : (performs i s).fcmd = s.fcmd := by
  cases i <;> simp [performs]

@[simp] theorem rcon_performs (i : Instr) (s : State) : (performs i s).rcon = s.rcon := by
  cases i <;> simp [performs]

@[simp] theorem host_performs (i : Instr) (s : State) : (performs i s).host = s.host := by
  cases i <;> simp [performs]

theorem resp_performs (i : Instr) (s : State) : ∃ d, (performs i s).resp = some ⟨.done, d⟩ := by
  cases i <;> simp [performs]

/-- A command's own rule changes no register outside its write set. -/
theorem operand_performs_of_not_mem (i : Instr) (s : State) {r : OpReg} (h : r ∉ writeSet i) :
    (performs i s).operand r = s.operand r := by
  cases i with
  | ld sel dataIn => cases sel <;> cases r <;> simp_all [writeSet, performs]
  | _ => cases r <;> simp_all [writeSet, performs]

/-- A command's own rule does not look at what the host does later. -/
theorem performs_driven (i : Instr) (s : State) (l : List HostAction) :
    performs i (s.driven l) = (performs i s).driven l := by
  cases i with
  | ld sel dataIn => cases sel <;> rfl
  | rd sel => cases sel <;> rfl
  | _ => rfl

end Sys2Proof.Machine
end

