-- ==== Sys2Proof/Laws/Run.lean ====
section
/-! SUPPORT. Running the machine step by step, and observing a run. -/

namespace Sys2Proof.Machine

/-- A run of any machine peels off its first step. -/
theorem run_succ_of_next {M : Host.Core} {n : Nat} {s t : M.State} (h : M.step s = .next t) :
    M.run (n + 1) s = M.run n t := by
  simp only [Host.Core.run, h]

theorem core_run_zero (s : State) : core.run 0 s = .next s := by
  rfl

theorem core_run_succ {n : Nat} {s t : State} (h : step s = .next t) : core.run (n + 1) s = core.run n t :=
  run_succ_of_next (M := core) h

theorem observe_succ {n : Nat} {s t : State} (h : step s = .next t) :
    observe (n + 1) s = (responseOf s t ++ (observe n t).1, (observe n t).2) := by
  simp only [observe, h]

theorem responseOf_command {s t : State} {cmd dataIn : Word} {rest : List HostAction}
    (h : s.host = .command cmd dataIn :: rest) : responseOf s t = t.resp.toList := by
  simp only [responseOf, h]

theorem responseOf_reset {s t : State} {rest : List HostAction} (h : s.host = .reset :: rest) :
    responseOf s t = [] := by
  simp only [responseOf, h]

theorem responseOf_idle {s t : State} (h : s.host = []) : responseOf s t = [] := by
  simp only [responseOf, h]

end Sys2Proof.Machine
end

