-- ==== Sys2Proof/Machine/Assembly.lean ====
section
/-! DEFINITION. The assembler notation of the spec (30_encoding.md R71, R72): one command or pseudo-command a line, the
mnemonic, then its operands, with `;` starting a comment. A line is a list of characters. -/

namespace Sys2Proof.Machine

/-- The words of a line before its comment. Blanks separate words, and a comma is a word of its own. -/
def asmWords (line : List Char) : List (List Char) :=
  let cut := (line.takeWhile (· != ';')).foldr
    (fun ch (acc : List Char × List (List Char)) =>
      let flushed := if acc.1.isEmpty then acc.2 else acc.1 :: acc.2
      if ch == ' ' || ch == '\t' then ([], flushed)
      else if ch == ',' then ([], [','] :: flushed)
      else (ch :: acc.1, acc.2)) ([], [])
  if cut.1.isEmpty then cut.2 else cut.1 :: cut.2

/-- A digit's value in base 16 (00_scope.md R9). -/
def asmDigit (ch : Char) : Option Nat :=
  let n := ch.toNat
  if 48 ≤ n ∧ n ≤ 57 then some (n - 48)
  else if 65 ≤ n ∧ n ≤ 70 then some (n - 55)
  else if 97 ≤ n ∧ n ≤ 102 then some (n - 87)
  else none

/-- Digits, most significant first (00_scope.md R9). -/
def asmDigits (base : Nat) (digits : List Char) : Option Nat :=
  if digits.isEmpty then none
  else digits.foldl (fun acc ch =>
    match acc, asmDigit ch with
    | some n, some d => if d < base then some (n * base + d) else none
    | _, _ => none) (some 0)

/-- A number below `2^width`. DESIGN CHOICE: `0x` with hexadecimal digits, or decimal digits (log 14). -/
def asmNumber (width : Nat) (w : List Char) : Option (BitVec width) :=
  let value := match w with
    | '0' :: 'x' :: digits => asmDigits 16 digits
    | digits => asmDigits 10 digits
  match value with
  | some n => if n < 2 ^ width then some (BitVec.ofNat width n) else none
  | none => none

/-- Numbers separated by commas. -/
def asmNumbers (width : Nat) : List (List Char) → Option (List (BitVec width))
  | [] => none
  | [w] => (asmNumber width w).map ([·])
  | w :: [','] :: rest =>
    match asmNumber width w, asmNumbers width rest with
    | some n, some ns => some (n :: ns)
    | _, _ => none
  | _ :: _ :: _ => none

/-- `<reg>`: one of `X Y C K0 K1 K2 K3`. -/
def asmReg (w : List Char) : Option OpReg :=
  match w with
  | ['X'] => some .x
  | ['Y'] => some .y
  | ['C'] => some .c
  | ['K', '0'] => some .k0
  | ['K', '1'] => some .k1
  | ['K', '2'] => some .k2
  | ['K', '3'] => some .k3
  | _ => none

/-- `<step>`: a decimal 0..9. -/
def asmStep (w : List Char) : Option (BitVec 4) :=
  match w with
  | [_] => (asmDigits 10 w).map (BitVec.ofNat 4)
  | _ => none

/-- The commands of one line, or none where it follows no form of R71 or R72. A blank or comment line has no command. -/
def assembleLine (line : List Char) : Option (List Instr) :=
  match asmWords line with
  | [] => some []
  | [['L', 'D'], reg, [','], imm] =>
    match asmReg reg, asmNumber 32 imm with
    | some r, some v => some [.ld r v]
    | _, _ => none
  | [['R', 'D'], reg] => (asmReg reg).map ([.rd ·])
  | [['R', 'O', 'U', 'N', 'D', 'F'], step] => (asmStep step).map ([.roundf ·])
  | [['R', 'O', 'U', 'N', 'D', 'I'], step] => (asmStep step).map ([.roundi ·])
  | [['B', 'O', 'X', 'F']] => some [.boxf]
  | [['B', 'O', 'X', 'I']] => some [.boxi]
  | [['W', 'H', 'I', 'T', 'E', 'N']] => some [.whiten]
  | [['E', 'N', 'C']] => some [.enc]
  | [['D', 'E', 'C']] => some [.dec]
  | [['E', 'N', 'C', 'R']] => some encRounds
  | [['D', 'E', 'C', 'R']] => some decRounds
  | ['L', 'D', 'K', 'E', 'Y'] :: args =>
    match asmNumbers 32 args with
    | some [k0, k1, k2, k3] => some (ldKey #v[k0, k1, k2, k3])
    | _ => none
  | ['L', 'D', 'K', 'E', 'Y', 'B'] :: args =>
    match asmNumbers 8 args with
    | some bytes => if h : bytes.length = 16 then some (ldKeyBytes ⟨bytes.toArray, h⟩) else none
    | none => none
  | ['L', 'D', 'B', 'L', 'K'] :: args =>
    match asmNumbers 64 args with
    | some [b] => some (ldBlockInt b)
    | _ => none
  | ['L', 'D', 'B', 'L', 'K', 'B'] :: args =>
    match asmNumbers 8 args with
    | some bytes => if h : bytes.length = 8 then some (ldBlockBytes ⟨bytes.toArray, h⟩) else none
    | none => none
  | _ => none

end Sys2Proof.Machine
end

