-- ==== Sys2Proof/Tests/Slice0.lean ====
section
/-! SUPPORT. Small tests whose expected results are the spec's own vectors (95_test_vectors.md), the smoke test of
WellFormed, and for each statement with hypotheses a theorem that something meets them. -/

namespace Sys2Proof.Tests

open Sys2Proof.Machine

/-! ## Helpers -/

/-- Every register written: the key and block of 95_test_vectors.md V1, and C of V10. -/
def loaded : State :=
  { State.reset with
    x := ⟨0x89ABCDEF#32, true⟩
    y := ⟨0x01234567#32, true⟩
    c := ⟨0xB7E15162#32, true⟩
    k0 := ⟨0x42424242#32, true⟩
    k1 := ⟨0x42424242#32, true⟩
    k2 := ⟨0x42424242#32, true⟩
    k3 := ⟨0x42424242#32, true⟩ }

/-- The keys and block of 95_test_vectors.md V22 and V23. -/
def loaded22 : State :=
  { loaded with
    x := ⟨0x01234567#32, true⟩
    y := ⟨0x89ABCDEF#32, true⟩
    k0 := ⟨0x00000000#32, true⟩
    k1 := ⟨0x11111111#32, true⟩
    k2 := ⟨0x22222222#32, true⟩
    k3 := ⟨0x33333333#32, true⟩ }

/-- A block that faulted on BOXF with Y and C unwritten (95_test_vectors.md P4, after its second command). -/
def faulted : State :=
  { State.reset with x := ⟨0x00000005#32, true⟩, fault := true, cause := .uninitRead, fcmd := 0x00000010#32 }

def stateAfter (o : Host.Outcome State Fault Refusal) : Option State :=
  match o with
  | .next t => some t
  | .fault _ => none
  | .refused _ => none

def blockAfter (o : Host.Outcome State Fault Refusal) : Option Block := (stateAfter o).map State.block

def respAfter (o : Host.Outcome State Fault Refusal) : Option Response := (stateAfter o).bind State.resp

/-- FAULT, CAUSE's code and FCMD after a step. -/
def statusAfter (o : Host.Outcome State Fault Refusal) : Option (BitVec 1 × BitVec 2 × Word) :=
  (stateAfter o).map fun t => (faultOut t, causeOut t, fcmdOut t)

/-- One command word sent to a block fresh from reset. -/
def sentAtReset (cmd : Word) : Host.Outcome State Fault Refusal := step (State.reset.driven [.command cmd 0#32])

/-! ## WellFormed: an ill-formed term for each check -/

theorem test_wf_refuses_roundf_10 : (Instr.roundf 10#4).wf = false := by decide
theorem test_wf_refuses_roundi_15 : (Instr.roundi 15#4).wf = false := by decide
theorem test_wf_allows_roundf_9 : (Instr.roundf 9#4).wf = true := by decide

/-! ## Decoding words of 30_encoding.md R67, R71, 43_host_transfer.md R140, R141 -/

theorem test_decode_ld_x : decode 0x00000001#32 0x12345678#32 = .ok (.ld .x 0x12345678#32) := by decide
theorem test_decode_ld_c : decode 0x00000201#32 7#32 = .ok (.ld .c 7#32) := by decide
theorem test_decode_ld_k0 : decode 0x00000401#32 7#32 = .ok (.ld .k0 7#32) := by decide
theorem test_decode_ld_k3 : decode 0x00000701#32 0x42424242#32 = .ok (.ld .k3 0x42424242#32) := by decide
theorem test_decode_rd_y : decode 0x00000102#32 0xFFFFFFFF#32 = .ok (.rd .y) := by decide
theorem test_decode_rd_k1 : decode 0x00000502#32 0#32 = .ok (.rd .k1) := by decide
theorem test_decode_rd_k2 : decode 0x00000602#32 0#32 = .ok (.rd .k2) := by decide
theorem test_decode_boxf : decode 0x00000010#32 0#32 = .ok .boxf := by decide
theorem test_decode_boxi : decode 0x00000011#32 0#32 = .ok .boxi := by decide
theorem test_decode_roundf_9 : decode 0x00000920#32 0#32 = .ok (.roundf 9#4) := by decide
theorem test_decode_roundi_1 : decode 0x00000121#32 0#32 = .ok (.roundi 1#4) := by decide
theorem test_decode_whiten : decode 0x00000022#32 0#32 = .ok .whiten := by decide
theorem test_decode_enc : decode 0x00000030#32 0#32 = .ok .enc := by decide
theorem test_decode_dec : decode 0x00000031#32 0#32 = .ok .dec := by decide
theorem test_decodeTableWord_enc : decodeTableWord 32 0x30 = some .enc := by decide

/-! ## Words the decoder refuses, by name (95_test_vectors.md V50) -/

theorem test_decode_zero_word : decode 0x00000000#32 0#32 = .error .unassignedOpcode := by decide
theorem test_decode_opcode_ff : decode 0x000000FF#32 0#32 = .error .unassignedOpcode := by decide
theorem test_decode_reserved_bit_12 : decode 0x00001001#32 0#32 = .error .reservedBits := by decide
theorem test_decode_reserved_bit_31 : decode 0x80000030#32 0#32 = .error .reservedBits := by decide
theorem test_decode_selector_3 : decode 0x00000301#32 0#32 = .error .reservedSelector := by decide
theorem test_decode_selector_15 : decode 0x00000F02#32 0#32 = .error .reservedSelector := by decide
theorem test_decode_boxf_argument : decode 0x00000110#32 0#32 = .error .argumentNotZero := by decide
theorem test_decode_step_10 : decode 0x00000A20#32 0#32 = .error .stepOutOfRange := by decide

/-! ## Cipher functions -/

/-- 95_test_vectors.md V12. -/
theorem test_rotr_17 : rotr 0x12345678#32 17 = 0x2B3C091A#32 := by decide

/-- 95_test_vectors.md V11, top bit of x: the carry out is discarded. -/
theorem test_box_forward_top_bit :
    boxFwd ⟨0x80000000#32, 0#32⟩ 0#32 = ⟨0x010221A0#32, 0x2220C2E3#32⟩ := by decide

/-- 95_test_vectors.md V11, applied to V10's input. -/
theorem test_box_inverse_of_input :
    boxInv ⟨0x89ABCDEF#32, 0x01234567#32⟩ 0xB7E15162#32 = ⟨0xBB09E9DF#32, 0x0098BDF3#32⟩ := by decide

/-- 95_test_vectors.md V20, step 9: bit 3 of the index enters, zero-extended, with K2 and K3. -/
theorem test_inject_9 :
    inject ⟨0#32, 0#32⟩ #v[0#32, 0x11111111#32, 0x22222222#32, 0x33333333#32] 9 = ⟨0x2222222B#32, 0x3333333A#32⟩ := by
  decide

/-! ## The commands -/

/-- 95_test_vectors.md V40: LD X from reset. -/
theorem test_ld_writes :
    (stateAfter (exec (.ld .x 0x12345678#32) State.reset)).map (fun t => (t.operand .x, t.resp)) =
      some (⟨0x12345678#32, true⟩, some ⟨.done, none⟩) := by decide

/-- 95_test_vectors.md V40: only the named key is written. -/
theorem test_ld_k3_only :
    (stateAfter (exec (.ld .k3 0x42424242#32) State.reset)).map (fun t => (t.written .k3, t.written .k2, t.written .x)) =
      some (true, false, false) := by decide

/-- 95_test_vectors.md V40: keys are readable. -/
theorem test_rd_returns : respAfter (exec (.rd .k1) loaded) = some ⟨.done, some 0x42424242#32⟩ := by decide

/-- 95_test_vectors.md V50: RD K0 from reset. -/
theorem test_rd_unwritten : statusAfter (exec (.rd .k0) State.reset) = some (1#1, 2#2, 0x00000402#32) := by decide

/-- 95_test_vectors.md V10, P3. -/
theorem test_boxf : blockAfter (exec .boxf loaded) = some ⟨0x74051CEB#32, 0x02454F0B#32⟩ := by decide

/-- 95_test_vectors.md P4, its second command. -/
theorem test_boxf_unwritten :
    exec .boxf { State.reset with x := ⟨0x00000005#32, true⟩ } = .next { faulted with resp := some ⟨.fault, none⟩ } := by rfl

/-- 95_test_vectors.md V11, V10's input. -/
theorem test_boxi : blockAfter (exec .boxi loaded) = some ⟨0xBB09E9DF#32, 0x0098BDF3#32⟩ := by decide

/-- 95_test_vectors.md V22, step 8. -/
theorem test_roundf_8 : blockAfter (exec (.roundf 8#4) loaded22) = some ⟨0xEF78036B#32, 0x59ADE1C0#32⟩ := by decide

/-- 95_test_vectors.md P6: an even round with K2 and K3 unwritten. -/
theorem test_roundf_0_other_pair_unwritten :
    blockAfter (exec (.roundf 0#4) { State.reset with
      x := ⟨3#32, true⟩, y := ⟨4#32, true⟩, k0 := ⟨1#32, true⟩, k1 := ⟨2#32, true⟩ }) =
      some ⟨0x04439012#32, 0x4D9DFC26#32⟩ := by decide

/-- 95_test_vectors.md V22, step 5. -/
theorem test_roundi_5 : blockAfter (exec (.roundi 5#4) loaded22) = some ⟨0xF47AD980#32, 0x04898923#32⟩ := by decide

/-- 95_test_vectors.md V50: STEP 15 is illegal, also as a term given to exec. -/
theorem test_roundi_15 : statusAfter (exec (.roundi 15#4) loaded) = some (1#1, 1#2, 0x00000F21#32) := by decide

/-- 95_test_vectors.md V23. -/
theorem test_whiten : blockAfter (exec .whiten loaded22) = some ⟨0x01234567#32, 0x98BADCFE#32⟩ := by decide

/-- 95_test_vectors.md V1, the source's known-answer vector. -/
theorem test_enc_known_answer : blockAfter (exec .enc loaded) = some ⟨0x69B506AC#32, 0x5BCFF618#32⟩ := by decide +kernel

/-- 95_test_vectors.md V1: DEC applied to the plaintext. -/
theorem test_dec : blockAfter (exec .dec loaded) = some ⟨0x159D64B8#32, 0x5FEA896F#32⟩ := by decide +kernel

/-- 95_test_vectors.md V31, the key of bytes 00..0f. -/
theorem test_enc_byte_key :
    encrypt rconDefault #v[0x03020100#32, 0x07060504#32, 0x0B0A0908#32, 0x0F0E0D0C#32] ⟨0x03020100#32, 0x07060504#32⟩ =
      ⟨0x8C528BE5#32, 0x2386F616#32⟩ := by decide +kernel

/-! ## Steps -/

/-- 95_test_vectors.md V50: an illegal word beats an unwritten register. -/
theorem test_step_illegal_first : statusAfter (sentAtReset 0x00000A20#32) = some (1#1, 1#2, 0x00000A20#32) := by decide

/-- 95_test_vectors.md V50. -/
theorem test_step_enc_unwritten : statusAfter (sentAtReset 0x00000030#32) = some (1#1, 2#2, 0x00000030#32) := by decide

/-- 95_test_vectors.md P4, its third command. -/
theorem test_step_drops : step (faulted.driven [.command 0x00000101#32 6#32]) =
    .next { faulted with resp := some ⟨.dropped, none⟩ } := by rfl

/-- 70_reset_and_hazards.md R180. -/
theorem test_step_reset : step (faulted.driven [.reset]) = .next State.reset := by rfl

/-- A command placed on the port is the one the next step takes: ENC from a loaded block. -/
theorem test_withFetchWord : blockAfter (step (loaded.withFetchWord 32 0x30)) = some ⟨0x69B506AC#32, 0x5BCFF618#32⟩ := by
  decide +kernel

/-! ## Host conventions -/

/-- 30_encoding.md R71. -/
theorem test_asm_ld : assembleLine
    ['L', 'D', ' ', 'K', '3', ',', ' ', '0', 'x', '4', '2', '4', '2', '4', '2', '4', '2', ' ', ';', 'k'] =
      some [.ld .k3 0x42424242#32] := by decide

/-- 30_encoding.md R71. -/
theorem test_asm_roundf : (assembleLine ['R', 'O', 'U', 'N', 'D', 'F', ' ', '9']).map (·.map encodeCmd) =
    some [0x00000920#32] := by decide

/-- 30_encoding.md R72. -/
theorem test_asm_ldblk : assembleLine ['L', 'D', 'B', 'L', 'K', ' ', '5'] = some [.ld .x 5#32, .ld .y 0#32] := by decide

/-- 43_host_transfer.md R144. -/
theorem test_block_of_int : blockOfInt 0x0123456789abcdef#64 = ⟨0x89ABCDEF#32, 0x01234567#32⟩ := by decide

/-- 43_host_transfer.md R146. -/
theorem test_block_of_bytes :
    blockOfBytes #v[0x31#8, 0x32#8, 0x33#8, 0x34#8, 0x35#8, 0x36#8, 0x37#8, 0x38#8] = ⟨0x34333231#32, 0x38373635#32⟩ := by
  decide

/-- 43_host_transfer.md R147. -/
theorem test_key_of_bytes :
    keyOfBytes #v[0#8, 1#8, 2#8, 3#8, 4#8, 5#8, 6#8, 7#8, 8#8, 9#8, 10#8, 11#8, 12#8, 13#8, 14#8, 15#8] =
      #v[0x03020100#32, 0x07060504#32, 0x0B0A0908#32, 0x0F0E0D0C#32] := by decide

/-! ## Witnesses: the hypotheses of each statement can be met, clause by clause -/

theorem witness_DecodeOfEncodeIsIdentity :
    (Instr.roundi 9#4).wf = true ∧ ∀ sel v, Instr.roundi 9#4 ≠ .ld sel v := by
  refine ⟨by decide, ?_⟩
  intro _ _ h
  cases h

theorem witness_EncodeOfDecodeIsTheWord :
    decode 0x00000701#32 5#32 = .ok (.ld .k3 5#32) ∧ (Instr.ld .k3 5#32) = .ld .k3 5#32 := by decide

theorem witness_IllegalCommandExactlyOnIllegalWords :
    ∃ t, (State.reset.driven [.command 0x00000A20#32 0#32]).fault = false ∧
      step (State.reset.driven [.command 0x00000A20#32 0#32]) = .next t :=
  ⟨_, rfl, rfl⟩

theorem witness_IllegalCommandExactlyOnIllegalWords_legal :
    ∃ t, (State.reset.driven [.command 0x00000920#32 0#32]).fault = false ∧
      step (State.reset.driven [.command 0x00000920#32 0#32]) = .next t ∧ legal 0x00000920#32 = true :=
  ⟨_, rfl, rfl, by decide⟩

theorem witness_ReservedBitsAndStrayArgumentsFault_reserved :
    (State.reset.driven [.command 0x00001001#32 0#32]).fault = false ∧ rsvField 0x00001001#32 ≠ 0#20 := by decide

theorem witness_ReservedBitsAndStrayArgumentsFault_argument :
    opField 0x00000F31#32 ∈ [0x10#8, 0x11#8, 0x22#8, 0x30#8, 0x31#8] ∧ argField 0x00000F31#32 ≠ 0#4 := by decide

theorem witness_SelectorsNameTheSevenRegisters :
    (7#4, OpReg.k3) ∈ [(0#4, OpReg.x), (1#4, .y), (2#4, .c), (4#4, .k0), (5#4, .k1), (6#4, .k2), (7#4, .k3)] ∧
    8#4 ∈ [3#4, 8#4, 9#4, 10#4, 11#4, 12#4, 13#4, 14#4, 15#4] ∧
    (State.reset.driven [.command (commandWord 8#4 0x02#8) 0#32]).fault = false := by decide

theorem witness_StepFieldIsTheRoundIndex :
    (9#4).toNat ≤ 9 ∧ 9 < (10#4).toNat ∧ (State.reset.driven [.command (commandWord 10#4 0x21#8) 0#32]).fault = false := by
  decide

theorem witness_DataInReachesOnlyLd :
    (State.reset.driven [.command (commandWord (selectorOf .k3) 0x01#8) 5#32]).fault = false ∧
    opField 0x00000102#32 ≠ 0x01#8 := by decide

theorem witness_RotationMovesEveryBit : 0 < 31 ∧ 31 < 32 ∧ (31 : Nat) < 32 := by decide

theorem witness_RoundsInjectTheirKeyPairAroundTheBox : 9 ≤ 9 ∧ 9 % 2 = 1 ∧ 8 ≤ 9 ∧ 8 % 2 = 0 := by decide

theorem witness_RoundsUndoEachOther : 9 ≤ 9 := by decide

theorem witness_LdCompletes : State.reset.fault = false := by decide

theorem witness_RdCompletes : loaded.fault = false ∧ loaded.written .k3 = true := by decide

theorem witness_BoxfCompletes : loaded.ready [.x, .y, .c] = true := by decide

theorem witness_BoxiCompletes : loaded22.ready [.x, .y, .c] = true := by decide

theorem witness_RoundfCompletes :
    (9#4).toNat ≤ 9 ∧ loaded.ready [.x, .y, .k2, .k3] = true ∧ (8#4).toNat ≤ 9 ∧ loaded.ready [.x, .y, .k0, .k1] = true := by
  decide

theorem witness_RoundiCompletes :
    (9#4).toNat ≤ 9 ∧ loaded22.ready [.x, .y, .k2, .k3] = true ∧ (0#4).toNat ≤ 9 ∧ loaded22.ready [.x, .y, .k0, .k1] = true := by
  decide

theorem witness_WhitenCompletes : loaded.ready [.x, .y, .k0, .k1] = true := by decide

theorem witness_EncCompletes : loaded.ready [.x, .y, .k0, .k1, .k2, .k3] = true := by decide

theorem witness_DecCompletes : loaded22.ready [.x, .y, .k0, .k1, .k2, .k3] = true := by decide

theorem witness_ReadsHaveNoSideEffectAndLoadsRepeat :
    (∃ t, loaded.fault = false ∧ loaded.written .k3 = true ∧ exec (.rd .k3) loaded = .next t) ∧
    (∃ t, State.reset.fault = false ∧ exec (.ld .x 5#32) State.reset = .next t) :=
  ⟨⟨_, rfl, rfl, rfl⟩, ⟨_, rfl, rfl⟩⟩

/-- The host runs a WHITEN, which writes X and Y, between two RDs of K3. -/
theorem witness_ReadsHaveNoSideEffectAndLoadsRepeat_between :
    ∃ u, (∀ a ∈ [HostAction.command 0x00000022#32 0#32], mayWrite .k3 a = false) ∧
      core.run 1 (loaded.driven [.command 0x00000022#32 0#32]) = .next u ∧ u.fault = false ∧
      u.operand .k3 = loaded.operand .k3 ∧ u.operand .x ≠ loaded.operand .x :=
  ⟨_, by decide, rfl, by decide, by decide, by decide⟩

/-- Each kind of host action that can write X, and that an LD of X writes nothing else. -/
theorem test_mayWrite :
    mayWrite .x .reset = true ∧ mayWrite .x (.command 0x00000001#32 5#32) = true ∧
    mayWrite .y (.command 0x00000001#32 5#32) = false ∧ mayWrite .x (.command 0x00000030#32 0#32) = true ∧
    mayWrite .c (.command 0x00000030#32 0#32) = false ∧ mayWrite .x (.command 0x00000002#32 0#32) = false ∧
    mayWrite .x (.command 0xFFFFFFFF#32 0#32) = false := by decide

theorem witness_InverseCommandsRestoreTheBlock :
    ∃ t u, loaded22.ready (readSet .whiten) = true ∧ exec .whiten loaded22 = .next t ∧ exec .whiten t = .next u :=
  ⟨_, _, rfl, rfl, rfl⟩

theorem witness_InverseCommandsRestoreTheBlock_box :
    ∃ t u, loaded.ready (readSet .boxi) = true ∧ exec .boxi loaded = .next t ∧ exec .boxf t = .next u :=
  ⟨_, _, rfl, rfl, rfl⟩

theorem witness_InverseCommandsRestoreTheBlock_step_9 :
    ∃ t u, (9#4).toNat ≤ 9 ∧ loaded22.ready (readSet (.roundf 9#4)) = true ∧
      exec (.roundf 9#4) loaded22 = .next t ∧ exec (.roundi 9#4) t = .next u :=
  ⟨_, _, by decide, rfl, rfl, rfl⟩

theorem witness_InverseCommandsRestoreTheBlock_schedule :
    ∃ t u, loaded.ready (readSet .enc) = true ∧ exec .enc loaded = .next t ∧ exec .dec t = .next u :=
  ⟨_, _, rfl, rfl, rfl⟩

theorem witness_RoundCommandsEqualTheSchedule :
    loaded.ready [.x, .y, .k0, .k1, .k2, .k3] = true ∧
    ({ loaded with k3 := .unwritten } : State).ready [.x, .y] = true ∧
    ({ loaded with k3 := .unwritten } : State).allWritten [.k0, .k1, .k2, .k3] = false := by decide

theorem witness_EveryCommandKeepsWhatItDoesNotWrite :
    ∃ t, exec (.ld .k3 5#32) loaded = .next t ∧ OpReg.x ≠ .k3 ∧ ∀ d, t.resp ≠ some ⟨.fault, d⟩ := by
  refine ⟨_, rfl, by decide, ?_⟩
  intro d h
  cases h

theorem witness_EveryCommandKeepsWhatItDoesNotWrite_transform :
    ∃ t, exec .boxf loaded = .next t ∧ transforms .boxf = true ∧ OpReg.c ≠ .x ∧ OpReg.c ≠ .y :=
  ⟨_, rfl, by decide, by decide, by decide⟩

theorem witness_EveryCommandKeepsWhatItDoesNotWrite_rd :
    ∃ t, exec (.rd .k3) loaded = .next t ∧ ∀ d, t.resp ≠ some ⟨.fault, d⟩ := by
  refine ⟨_, rfl, ?_⟩
  intro d h
  cases h

theorem witness_OperandRegistersKeepTheirValue :
    ∃ t, step (State.reset.driven [.command 0x00000701#32 5#32]) = .next t ∧
      t.operand .k3 ≠ (State.reset.driven [.command 0x00000701#32 5#32]).operand .k3 :=
  ⟨_, rfl, by decide⟩

theorem witness_RoundConstantsAreReadOnly :
    (∃ t, exec .boxf loaded = .next t ∧ (∀ a, Instr.boxf ≠ .roundf a ∧ Instr.boxf ≠ .roundi a) ∧
      Instr.boxf ≠ .enc ∧ Instr.boxf ≠ .dec) ∧
    (∃ (q : Rcon) (t : State), q ≠ loaded.rcon ∧ q[(9#4).toNat % 5] = loaded.rcon[(9#4).toNat % 5] ∧
      exec (.roundf 9#4) loaded = .next t) := by
  refine ⟨⟨_, rfl, ?_, by decide, by decide⟩, ⟨#v[0#32, 0#32, 0#32, 0#32, 0xBB1185EB#32], _, by decide, by decide, rfl⟩⟩
  intro a
  constructor <;> intro h <;> cases h

theorem witness_ResultsDependOnlyOnTheReadSet :
    loaded.fault = ({ loaded with k0 := .unwritten } : State).fault ∧
    loaded.rcon = ({ loaded with k0 := .unwritten } : State).rcon ∧
    (∀ r ∈ readSet .boxf, loaded.operand r = ({ loaded with k0 := .unwritten } : State).operand r) ∧
    transforms .boxf = true := by decide

theorem witness_UninitReadExactlyOnUnwrittenRegisters :
    (∃ t, (Instr.roundf 9#4).wf = true ∧ State.reset.fault = false ∧ exec (.roundf 9#4) State.reset = .next t) ∧
    (8#4).toNat % 2 = 0 ∧ (9#4).toNat % 2 = 1 :=
  ⟨⟨_, rfl, rfl, rfl⟩, by decide, by decide⟩

theorem witness_CommandsAreProcessedInOrder :
    faulted.fault = true ∧ (State.reset.fault = false ∧ legal 0x00000000#32 = false) ∧
    (State.reset.fault = false ∧ legal 0x00000030#32 = true ∧ State.reset.allWritten (readSet .enc) = false) ∧
    (loaded.fault = false ∧ legal 0x00000030#32 = true ∧ loaded.allWritten (readSet .enc) = true) := by decide

theorem witness_FaultsArePrecise :
    (∃ t, step (State.reset.driven [.command 0x00000010#32 0#32]) = .next t ∧ t.resp = some ⟨.fault, none⟩) ∧
    (∃ t, exec .boxf State.reset = .next t ∧ t.resp = some ⟨.fault, none⟩) :=
  ⟨⟨_, rfl, rfl⟩, ⟨_, rfl, rfl⟩⟩

theorem witness_FaultEntryRecordsCauseAndCommand :
    ∃ t, step (State.reset.driven [.command 0xFFFFFFFF#32 0#32]) = .next t ∧ t.resp = some ⟨.fault, none⟩ :=
  ⟨_, rfl, rfl⟩

theorem witness_FaultedBlockDropsEveryCommand :
    ∃ u, (faulted.driven [.command 0x00000101#32 6#32]).fault = true ∧
      commandsOnly (faulted.driven [.command 0x00000101#32 6#32]).host = true ∧
      core.run 1 (faulted.driven [.command 0x00000101#32 6#32]) = .next u :=
  ⟨_, rfl, rfl, rfl⟩

theorem witness_OnlyResetLeavesTheFaultedState :
    (∃ t, (faulted.driven [.reset]).fault = true ∧ step (faulted.driven [.reset]) = .next t) ∧
    (∃ t, step (faulted.driven [.command 0x00000002#32 0#32]) = .next t) :=
  ⟨⟨_, rfl, rfl⟩, ⟨_, rfl⟩⟩

theorem witness_AllResponsesDoneExactlyWhenNotFaulted :
    (State.reset.driven [.command 0x00000001#32 5#32, .command 0x00000010#32 0#32]).fault = false ∧
    commandsOnly [.command 0x00000001#32 5#32, .command 0x00000010#32 0#32] = true := by decide

theorem witness_ResetClearsAndNothingElseDoes :
    (faulted.driven [.reset]).host = .reset :: [] ∧
    (∃ t, step (faulted.driven [.command 0x00000002#32 0#32]) = .next t ∧
      (∀ rest, (faulted.driven [.command 0x00000002#32 0#32]).host ≠ .reset :: rest) ∧ faulted.written .x = true) := by
  refine ⟨rfl, _, rfl, ?_, rfl⟩
  intro rest h
  cases h

theorem witness_ResetClearsAndNothingElseDoes_faulted :
    ∃ t, faulted.fault = true ∧ step (faulted.driven [.command 0x00000030#32 0#32]) = .next t ∧
      ∀ rest, (faulted.driven [.command 0x00000030#32 0#32]).host ≠ .reset :: rest := by
  refine ⟨_, rfl, rfl, ?_⟩
  intro rest h
  cases h

theorem witness_IdleBlockHoldsItsState : loaded.host = [] := by decide

theorem witness_StepRunsTheDecodedCommand :
    (loaded.driven [.command 0x00000920#32 0#32]).host = .command 0x00000920#32 0#32 :: [] ∧
    decode 0x00000920#32 0#32 = .ok (.roundf 9#4) ∧ (Instr.roundf 9#4).wf = true := by decide

theorem witness_EveryCommandIsAnswered :
    (faulted.driven [.command 0x00000000#32 0#32]).host = .command 0x00000000#32 0#32 :: [] := by decide

theorem witness_ActionSequencesCompose :
    ∃ t, core.run [HostAction.reset].length (faulted.driven [.reset]) = .next t :=
  ⟨_, rfl⟩

theorem witness_StepKeepsTheFaultRecordSound :
    ∃ t, (faulted.driven [.reset]).faultRecordSound = true ∧ step (faulted.driven [.reset]) = .next t :=
  ⟨_, rfl, rfl⟩

theorem witness_UnwrittenValuesAreNeverObserved :
    ∃ t s' t', t ≠ State.reset ∧ State.reset.forgetUnwritten = t.forgetUnwritten ∧
      step State.reset = .next s' ∧ step t = .next t' :=
  ⟨{ State.reset with x := ⟨5#32, false⟩ }, _, _, by decide, by decide, rfl, rfl⟩

theorem witness_HostMappingsAreLittleEndian : 3 < 4 ∧ 0 < 4 := by decide

theorem witness_RepresentationsAgree : 7 < 8 := by decide

theorem witness_HostProcedureReturnsTheCipherWords : State.reset.fault = false := by decide

end Sys2Proof.Tests
end

/-! # Proofs: the state (10_state.md)

The frame of every command, what its results depend on, and the two invariants of a step: the fault record stays
truthful, and the value of an unwritten register reaches nothing. -/

namespace Sys2Proof

/-! ## The decoder and the encoder (30_encoding.md R61 to R69)

A word decodes exactly when it is legal, and the word of a well-formed instruction decodes to it. -/

@[simp] theorem isOk_ok (i : Instr) : (.ok i : Except DecodeError Instr).isOk = true := rfl

@[simp] theorem isOk_error (e : DecodeError) : (.error e : Except DecodeError Instr).isOk = false := rfl

theorem selected_isSome : ∀ sel : BitVec 4, (selected sel).isSome = [0, 1, 2, 4, 5, 6, 7].contains sel.toNat := by
  decide

theorem withSelector_isOk (cmd : Word) (make : OpReg → Instr) :
    (withSelector cmd make).isOk = [0, 1, 2, 4, 5, 6, 7].contains (argField cmd).toNat := by
  rw [← selected_isSome]
  cases h : selected (argField cmd) <;> simp [withSelector, h]

theorem withStep_isOk (cmd : Word) (make : BitVec 4 → Instr) :
    (withStep cmd make).isOk = decide ((argField cmd).toNat ≤ 9) := by
  by_cases h : (argField cmd).toNat ≤ 9 <;> simp [withStep, stepInRange_iff, h]

theorem withoutArgument_isOk (cmd : Word) (i : Instr) :
    (withoutArgument cmd i).isOk = ((argField cmd).toNat == 0) := by
  by_cases h : argField cmd = 0#4
  · simp [withoutArgument, h]
  · have : (argField cmd).toNat ≠ 0 := fun hz => h (BitVec.eq_of_toNat_eq hz)
    simp [withoutArgument, h, this]

/-- The decoder accepts exactly the legal words, whatever data word comes with them. -/
theorem decode_isOk (cmd dataIn : Word) : (decode cmd dataIn).isOk = legal cmd := by
  by_cases hr : rsvField cmd = 0#20
  · simp only [decode, hr, if_true, legal, decodeOpcode, beq_self_eq_true, Bool.true_and]
    split <;> simp only [*, withSelector_isOk, withStep_isOk, withoutArgument_isOk, isOk_error]
  · simp [decode, legal, hr]

theorem legal_eq_false_of_decode_error {cmd dataIn : Word} {e : DecodeError}
    (h : decode cmd dataIn = .error e) : legal cmd = false := by
  rw [← decode_isOk cmd dataIn, h, isOk_error]

/-- The instruction with `d` as LD's operand; the other commands take no data word (30_encoding.md R66). -/
def Instr.withData (d : Word) : Instr → Instr
  | .ld sel _ => .ld sel d
  | i => i

@[simp] theorem Machine.readSet_withData (d : Word) (i : Instr) : Machine.readSet (i.withData d) = Machine.readSet i := by
  cases i <;> rfl

/-- The command word of a well-formed instruction decodes to it, with whatever data word comes with it. -/
theorem decode_encodeCmd {i : Instr} (h : i.wf = true) (d : Word) :
    decode (encodeCmd i) d = .ok (i.withData d) := by
  cases i with
  | ld sel dataIn => simp [encodeCmd, decode, decodeOpcode, withSelector, Instr.withData]
  | rd sel => simp [encodeCmd, decode, decodeOpcode, withSelector, Instr.withData]
  | roundf step =>
    have hs : stepInRange step = true := h
    simp [encodeCmd, decode, decodeOpcode, withStep, hs, Instr.withData]
  | roundi step =>
    have hs : stepInRange step = true := h
    simp [encodeCmd, decode, decodeOpcode, withStep, hs, Instr.withData]
  | _ => simp [encodeCmd, decode, decodeOpcode, withoutArgument, Instr.withData]

end Sys2Proof

namespace Sys2Proof.Machine

/-! ## One step, by what the host does next -/

theorem step_idle {s : State} (h : s.host = []) : step s = .next s := by
  simp [step, fetch_idle h]

theorem step_reset {s : State} {rest : List HostAction} (h : s.host = .reset :: rest) :
    step s = .next (s.driven rest).resetBlock := by
  simp [step, fetch_reset h]

theorem step_illegal {s : State} {cmd dataIn : Word} {rest : List HostAction} {e : DecodeError}
    (h : s.host = .command cmd dataIn :: rest) (hd : decode cmd dataIn = .error e) :
    step s = .next ((s.driven rest).rejectIllegal cmd) := by
  simp [step, fetch_illegal h hd]

theorem step_legal {s : State} {cmd dataIn : Word} {rest : List HostAction} {i : Instr}
    (h : s.host = .command cmd dataIn :: rest) (hd : decode cmd dataIn = .ok i) :
    step s = exec i (s.driven rest) := by
  simp [step, fetch_legal h hd]

theorem State.rejectIllegal_of_fault {s : State} (h : s.fault = true) (cmd : Word) :
    s.rejectIllegal cmd = s.drop := by
  simp [State.rejectIllegal, h]

theorem State.rejectIllegal_of_not_fault {s : State} (h : s.fault = false) (cmd : Word) :
    s.rejectIllegal cmd = s.raiseFault .illegalCommand cmd := by
  simp [State.rejectIllegal, h]

@[simp] theorem State.rcon_rejectIllegal (s : State) (cmd : Word) : (s.rejectIllegal cmd).rcon = s.rcon := by
  cases h : s.fault
  · simp [State.rejectIllegal_of_not_fault h]
  · simp [State.rejectIllegal_of_fault h]

/-! ## The frame of a command (10_state.md R20 to R25) -/

/-- However a command ends, a register outside its write set keeps its value and written bit. -/
theorem operand_of_exec {i : Instr} {s t : State} {r : OpReg} (h : exec i s = .next t) (hr : r ∉ writeSet i) :
    t.operand r = s.operand r := by
  obtain ⟨-, rfl⟩ | ⟨-, -, rfl⟩ | ⟨-, -, -, rfl⟩ | ⟨-, -, -, rfl⟩ := exec_cases h
  · simp
  · simp
  · simp
  · exact operand_performs_of_not_mem i s hr

theorem rcon_of_exec {i : Instr} {s t : State} (h : exec i s = .next t) : t.rcon = s.rcon := by
  obtain ⟨-, rfl⟩ | ⟨-, -, rfl⟩ | ⟨-, -, -, rfl⟩ | ⟨-, -, -, rfl⟩ := exec_cases h <;> simp

theorem host_of_exec {i : Instr} {s t : State} (h : exec i s = .next t) : t.host = s.host := by
  obtain ⟨-, rfl⟩ | ⟨-, -, rfl⟩ | ⟨-, -, -, rfl⟩ | ⟨-, -, -, rfl⟩ := exec_cases h <;> simp

/-- The status registers change only when the command answers FAULT. -/
theorem status_of_exec {i : Instr} {s t : State} (h : exec i s = .next t) (hresp : ∀ d, t.resp ≠ some ⟨.fault, d⟩) :
    t.fault = s.fault ∧ t.cause = s.cause ∧ t.fcmd = s.fcmd := by
  obtain ⟨-, rfl⟩ | ⟨-, -, rfl⟩ | ⟨-, -, -, rfl⟩ | ⟨-, -, -, rfl⟩ := exec_cases h
  · simp
  · exact absurd rfl (hresp none)
  · exact absurd rfl (hresp none)
  · simp

theorem writeSet_of_transforms {i : Instr} (h : transforms i = true) : writeSet i = [.x, .y] := by
  cases i with
  | ld sel dataIn => cases h
  | rd sel => cases h
  | _ => rfl

/-- Settles O31: each clause is the frame of the command's write set. -/
theorem everyCommandKeepsWhatItDoesNotWrite : Obligations.EveryCommandKeepsWhatItDoesNotWrite := by
  intro i s t h
  refine ⟨?_, ?_, ?_, rcon_of_exec h, host_of_exec h, status_of_exec h⟩
  · rintro sel v r rfl hr
    exact operand_of_exec h (by simpa [writeSet] using hr)
  · rintro sel r rfl
    exact operand_of_exec h (by simp [writeSet])
  · intro r hi hx hy
    exact operand_of_exec h (by simp [writeSet_of_transforms hi, hx, hy])

/-! ## What a transforming command computes, and from what (10_state.md R23, R30) -/

/-- The block a transforming command writes; LD and RD compute none and get the block as it is. -/
def transformed (i : Instr) (s : State) : Block :=
  match i with
  | .ld _ _ => s.block
  | .rd _ => s.block
  | .boxf => boxFwd s.block (s.reg .c)
  | .boxi => boxInv s.block (s.reg .c)
  | .roundf step => roundFwd s.rcon s.key step.toNat s.block
  | .roundi step => roundInv s.rcon s.key step.toNat s.block
  | .whiten => whiten s.block s.key
  | .enc => encrypt s.rcon s.key s.block
  | .dec => decrypt s.rcon s.key s.block

theorem performs_of_transforms {i : Instr} (h : transforms i = true) (s : State) :
    performs i s = (s.setBlock (transformed i s)).done := by
  cases i with
  | ld sel dataIn => cases h
  | rd sel => cases h
  | _ => rfl

/-- The rounds a command runs; round `k` reads the ROM at `k mod 5` (41_round_function.md R101). -/
def roundsOf : Instr → List Nat
  | .roundf step => [step.toNat]
  | .roundi step => [step.toNat]
  | .enc => List.range Config.rounds
  | .dec => List.range Config.rounds
  | _ => []

theorem block_congr {s t : State} (hx : s.reg .x = t.reg .x) (hy : s.reg .y = t.reg .y) : s.block = t.block := by
  simp only [State.block, hx, hy]

theorem xy_mem_readSet {i : Instr} (h : transforms i = true) : .x ∈ readSet i ∧ .y ∈ readSet i := by
  cases i with
  | ld sel dataIn => cases h
  | rd sel => cases h
  | _ => simp [readSet]

theorem key_congr {s t : State} (h : ∀ r ∈ [OpReg.k0, .k1, .k2, .k3], s.reg r = t.reg r) : s.key = t.key := by
  simp only [List.forall_mem_cons] at h
  obtain ⟨h0, h1, h2, h3, -⟩ := h
  simp only [State.key, h0, h1, h2, h3]

/-- A round injects its own key pair only (41_round_function.md R100). -/
theorem inject_congr {s t : State} {step : Nat} (h : ∀ r ∈ keyPair step, s.reg r = t.reg r) (b : Block) :
    inject b s.key step = inject b t.key step := by
  rcases Nat.mod_two_eq_zero_or_one step with hm | hm
  · have h0 : s.reg .k0 = t.reg .k0 := h .k0 (by simp [keyPair, hm])
    have h1 : s.reg .k1 = t.reg .k1 := h .k1 (by simp [keyPair, hm])
    simp [inject, keyX, keyY, State.key, hm, h0, h1]
  · have h2 : s.reg .k2 = t.reg .k2 := h .k2 (by simp [keyPair, hm])
    have h3 : s.reg .k3 = t.reg .k3 := h .k3 (by simp [keyPair, hm])
    simp [inject, keyX, keyY, State.key, hm, h2, h3]

theorem encrypt_congr {p q : Rcon} (h : ∀ n ∈ List.range Config.rounds, rconAt p n = rconAt q n) (k : Key) (b : Block) :
    encrypt p k b = encrypt q k b := by
  unfold encrypt
  rw [List.foldl_ext _ _ _ fun b step hstep => by rw [roundFwd, h step hstep, ← roundFwd]]

theorem decrypt_congr {p q : Rcon} (h : ∀ n ∈ List.range Config.rounds, rconAt p n = rconAt q n) (k : Key) (b : Block) :
    decrypt p k b = decrypt q k b := by
  unfold decrypt
  exact List.foldl_ext _ _ _ fun b step hstep => by rw [roundInv, h step (List.mem_reverse.1 hstep), ← roundInv]

/-- A transforming command computes from the registers it reads and the ROM entries of its rounds. -/
theorem transformed_congr {i : Instr} {s t : State} (hi : transforms i = true)
    (hreads : ∀ r ∈ readSet i, s.reg r = t.reg r) (hrom : ∀ k ∈ roundsOf i, rconAt s.rcon k = rconAt t.rcon k) :
    transformed i s = transformed i t := by
  obtain ⟨hx, hy⟩ := xy_mem_readSet hi
  have hb : s.block = t.block := block_congr (hreads _ hx) (hreads _ hy)
  cases i with
  | ld sel dataIn => cases hi
  | rd sel => cases hi
  | boxf => simp only [transformed, hb, hreads .c (by simp [readSet])]
  | boxi => simp only [transformed, hb, hreads .c (by simp [readSet])]
  | roundf step =>
    have hin := inject_congr (fun r hr => hreads r (List.mem_append_right _ hr))
    simp only [transformed, roundFwd, hb, hin, hrom step.toNat (by simp [roundsOf])]
  | roundi step =>
    have hin := inject_congr (fun r hr => hreads r (List.mem_append_right _ hr))
    simp only [transformed, roundInv, hb, hin, hrom step.toNat (by simp [roundsOf])]
  | whiten =>
    have h0 : s.reg .k0 = t.reg .k0 := hreads _ (by simp [readSet])
    have h1 : s.reg .k1 = t.reg .k1 := hreads _ (by simp [readSet])
    simp [transformed, whiten, hb, State.key, h0, h1]
  | enc =>
    have hk : s.key = t.key := key_congr fun r hr => hreads r (.tail _ (.tail _ hr))
    simp only [transformed, hb, hk, encrypt_congr hrom]
  | dec =>
    have hk : s.key = t.key := key_congr fun r hr => hreads r (.tail _ (.tail _ hr))
    simp only [transformed, hb, hk, decrypt_congr hrom]

/-! ## Changes of the state that a command does not notice -/

/-- A change of the state that keeps FAULT, the written bits and the written values, and commutes with every update a
command can make. -/
structure KeepsWhatIsWritten (g : State → State) : Prop where
  fault : ∀ s, (g s).fault = s.fault
  written : ∀ s r, (g s).written r = s.written r
  reg : ∀ s r, s.written r = true → (g s).reg r = s.reg r
  raiseFault : ∀ s cause cmd, (g s).raiseFault cause cmd = g (s.raiseFault cause cmd)
  respond : ∀ s status d, (g s).respond status d = g (s.respond status d)
  setReg : ∀ s n v, (g s).setReg n v = g (s.setReg n v)

namespace KeepsWhatIsWritten

variable {g : State → State} {i : Instr} {s t : State}

theorem allWritten (hg : KeepsWhatIsWritten g) (s : State) (reads : List OpReg) :
    (g s).allWritten reads = s.allWritten reads := by
  simp only [State.allWritten, List.all_eq, hg.written]

theorem performs_comm (hg : KeepsWhatIsWritten g) (hw : s.allWritten (readSet i) = true)
    (hrom : ∀ k ∈ roundsOf i, rconAt (g s).rcon k = rconAt s.rcon k) :
    performs i (g s) = g (performs i s) := by
  have hreads : ∀ r ∈ readSet i, (g s).reg r = s.reg r := fun r hr => hg.reg s r (List.all_eq_true.1 hw r hr)
  cases hi : transforms i with
  | true =>
    simp only [performs_of_transforms hi, transformed_congr hi hreads hrom, State.setBlock, State.done_eq,
      hg.setReg, hg.respond]
  | false =>
    cases i with
    | ld sel dataIn => simp only [performs, State.done_eq, hg.setReg, hg.respond]
    | rd sel => simp only [performs, State.doneWith_eq, hreads sel (by simp [readSet]), hg.respond]
    | _ => cases hi

/-- Running a command after the change is changing the state the command leaves, as long as the ROM entries the
command's rounds read are the same. -/
theorem exec_comm (hg : KeepsWhatIsWritten g) (hrom : ∀ k ∈ roundsOf i, rconAt (g s).rcon k = rconAt s.rcon k)
    (h : exec i s = .next t) : exec i (g s) = .next (g t) := by
  rw [exec_eq_process]
  obtain ⟨hf, rfl⟩ | ⟨hf, hl, rfl⟩ | ⟨hf, hl, hw, rfl⟩ | ⟨hf, hl, hw, rfl⟩ := exec_cases h
  · rw [State.process_of_fault _ _ _ ((hg.fault s).trans hf), State.drop_eq, State.drop_eq, hg.respond]
  · rw [State.process_of_illegal _ _ ((hg.fault s).trans hf) ((legal_encodeCmd i).trans hl), hg.raiseFault]
  · rw [State.process_of_unwritten _ ((hg.fault s).trans hf) ((legal_encodeCmd i).trans hl)
      ((hg.allWritten s _).trans hw), hg.raiseFault]
  · rw [State.process_of_ready _ ((hg.fault s).trans hf) ((legal_encodeCmd i).trans hl)
      ((hg.allWritten s _).trans hw), hg.performs_comm hw hrom]

end KeepsWhatIsWritten

/-! ## The ROM (10_state.md R23) -/

/-- The state with another constant table in its ROM. -/
def State.withRom (q : Rcon) (s : State) : State := { s with rcon := q }

theorem keepsWhatIsWritten_withRom (q : Rcon) : KeepsWhatIsWritten (State.withRom q) where
  fault _ := rfl
  written _ r := by cases r <;> rfl
  reg _ r _ := by cases r <;> rfl
  raiseFault _ _ _ := rfl
  respond _ _ _ := rfl
  setReg _ n _ := by cases n <;> rfl

theorem rcon_of_step {s t : State} (h : step s = .next t) : t.rcon = s.rcon := by
  obtain ⟨-, hs⟩ | ⟨rest, -, hs⟩ | ⟨cmd, dataIn, rest, e, -, -, hs⟩ | ⟨cmd, dataIn, rest, i, -, -, hs⟩ := step_cases s
  · cases hs.symm.trans h
    rfl
  · cases hs.symm.trans h
    rfl
  · cases hs.symm.trans h
    simp
  · exact (rcon_of_exec (hs.symm.trans h)).trans (State.rcon_driven s rest)

theorem roundsOf_eq_nil {i : Instr} (hr : ∀ a, i ≠ .roundf a ∧ i ≠ .roundi a) (he : i ≠ .enc) (hd : i ≠ .dec) :
    roundsOf i = [] := by
  cases i with
  | roundf step => exact absurd rfl (hr step).1
  | roundi step => exact absurd rfl (hr step).2
  | enc => exact absurd rfl he
  | dec => exact absurd rfl hd
  | _ => rfl

theorem roundsOf_round {i : Instr} {a : BitVec 4} (h : i = .roundf a ∨ i = .roundi a) : roundsOf i = [a.toNat] := by
  rcases h with rfl | rfl <;> rfl

/-- Settles O33: another table in the ROM is a change a command notices only in the entries its rounds read. -/
theorem roundConstantsAreReadOnly : Obligations.RoundConstantsAreReadOnly := by
  refine ⟨fun s t => rcon_of_step, ?_, ?_⟩
  · intro i s t q hr he hd h
    exact (keepsWhatIsWritten_withRom q).exec_comm (by simp [roundsOf_eq_nil hr he hd]) h
  · intro a i s t q hi hq h
    refine (keepsWhatIsWritten_withRom q).exec_comm ?_ h
    rw [roundsOf_round hi, List.forall_mem_singleton]
    exact hq

/-! ## Results depend on the read set only (10_state.md R30) -/

theorem allWritten_congr {s t : State} {reads : List OpReg} (h : ∀ r ∈ reads, s.operand r = t.operand r) :
    s.allWritten reads = t.allWritten reads := by
  unfold State.allWritten
  rw [Bool.eq_iff_iff, List.all_eq_true, List.all_eq_true]
  exact forall₂_congr fun r hr => by rw [State.written, State.written, h r hr]

/-- From two states with the same FAULT that agree on the registers a command reads, the command ends the same way. -/
theorem exec_ends_alike {i : Instr} {s t s' t' : State} (hf : s.fault = t.fault)
    (hreads : ∀ r ∈ readSet i, s.operand r = t.operand r) (hs : exec i s = .next s') (ht : exec i t = .next t') :
    (s.fault = true ∧ s' = s.drop ∧ t' = t.drop) ∨
    (∃ cause, s' = s.raiseFault cause (encodeCmd i) ∧ t' = t.raiseFault cause (encodeCmd i) ∧
      ∀ sel v, i ≠ .ld sel v) ∨
    (s' = performs i s ∧ t' = performs i t) := by
  have hw := allWritten_congr hreads
  rw [exec_eq_process] at ht
  injection ht with ht
  obtain ⟨hfs, rfl⟩ | ⟨hfs, hl, rfl⟩ | ⟨hfs, hl, hws, rfl⟩ | ⟨hfs, hl, hws, rfl⟩ := exec_cases hs
  · rw [State.process_of_fault _ _ _ (hf ▸ hfs)] at ht
    exact .inl ⟨hfs, rfl, ht.symm⟩
  · rw [State.process_of_illegal _ _ (hf ▸ hfs) ((legal_encodeCmd i).trans hl)] at ht
    refine .inr (.inl ⟨_, rfl, ht.symm, ?_⟩)
    rintro sel v rfl
    cases hl
  · rw [State.process_of_unwritten _ (hf ▸ hfs) ((legal_encodeCmd i).trans hl) (hw ▸ hws)] at ht
    refine .inr (.inl ⟨_, rfl, ht.symm, ?_⟩)
    rintro sel v rfl
    cases hws
  · rw [State.process_of_ready _ (hf ▸ hfs) ((legal_encodeCmd i).trans hl) (hw ▸ hws)] at ht
    exact .inr (.inr ⟨rfl, ht.symm⟩)

theorem resp_performs_congr {i : Instr} {s t : State} (hreads : ∀ r ∈ readSet i, s.operand r = t.operand r) :
    (performs i s).resp = (performs i t).resp := by
  cases i with
  | rd sel => simp [performs, State.reg, hreads sel (by simp [readSet])]
  | _ => simp [performs]

/-- Settles O34: the two runs end the same way, and each ending writes and answers from the read set alone. -/
theorem resultsDependOnlyOnTheReadSet : Obligations.ResultsDependOnlyOnTheReadSet := by
  intro i s t s' t' hf hrcon hreads hs ht
  have hregs : ∀ r ∈ readSet i, s.reg r = t.reg r := fun r hr => congrArg OperandReg.value (hreads r hr)
  have hblock (hi : transforms i = true) : s.block = t.block :=
    block_congr (hregs _ (xy_mem_readSet hi).1) (hregs _ (xy_mem_readSet hi).2)
  obtain ⟨hfs, rfl, rfl⟩ | ⟨cause, rfl, rfl, hld⟩ | ⟨rfl, rfl⟩ := exec_ends_alike hf hreads hs ht
  · refine ⟨rfl, fun sel v _ hns => ?_, hblock⟩
    rw [hfs] at hns
    cases hns
  · exact ⟨rfl, fun sel v hi => absurd hi (hld sel v), hblock⟩
  · refine ⟨resp_performs_congr hreads, ?_, fun hi => ?_⟩
    · rintro sel v rfl -
      simp [performs]
    · have hres := transformed_congr hi hregs (by simp [hrcon])
      rw [performs_of_transforms hi, performs_of_transforms hi, hres]
      rfl

/-! ## Unwritten values (10_state.md R24) -/

@[simp] theorem State.operand_forgetUnwritten (s : State) (r : OpReg) :
    s.forgetUnwritten.operand r = (s.operand r).forget := by cases r <;> rfl

theorem OperandReg.forget_of_written {r : OperandReg} (h : r.written = true) : r.forget = r := by
  simp [OperandReg.forget, h]

@[simp] theorem OperandReg.written_forget (r : OperandReg) : r.forget.written = r.written := by
  cases h : r.written <;> simp [OperandReg.forget, h]

/-- No update a command makes reads an unwritten value, so forgetting those values first or last is the same. -/
theorem keepsWhatIsWritten_forgetUnwritten : KeepsWhatIsWritten State.forgetUnwritten where
  fault _ := rfl
  written s r := by simp [State.written]
  reg s r hw := by rw [State.reg, State.operand_forgetUnwritten, OperandReg.forget_of_written hw, State.reg]
  raiseFault _ _ _ := rfl
  respond _ _ _ := rfl
  setReg _ n _ := by cases n <;> rfl

theorem State.forgetUnwritten_rejectIllegal (s : State) (cmd : Word) :
    s.forgetUnwritten.rejectIllegal cmd = (s.rejectIllegal cmd).forgetUnwritten := by
  cases h : s.fault
  · rw [State.rejectIllegal_of_not_fault h, State.rejectIllegal_of_not_fault (s := s.forgetUnwritten) h]
    rfl
  · rw [State.rejectIllegal_of_fault h, State.rejectIllegal_of_fault (s := s.forgetUnwritten) h]
    rfl

/-- A step from a state whose unwritten values are forgotten is the step itself with those values forgotten. -/
theorem step_forgetUnwritten {s t : State} (h : step s = .next t) :
    step s.forgetUnwritten = .next t.forgetUnwritten := by
  obtain ⟨hh, hs⟩ | ⟨rest, hh, hs⟩ | ⟨cmd, dataIn, rest, e, hh, hd, hs⟩ | ⟨cmd, dataIn, rest, i, hh, hd, hs⟩ :=
    step_cases s
  · cases hs.symm.trans h
    exact step_idle hh
  · cases hs.symm.trans h
    exact step_reset (s := s.forgetUnwritten) hh
  · cases hs.symm.trans h
    rw [step_illegal (s := s.forgetUnwritten) hh hd, ← State.forgetUnwritten_rejectIllegal]
    rfl
  · rw [step_legal (s := s.forgetUnwritten) hh hd]
    exact keepsWhatIsWritten_forgetUnwritten.exec_comm (fun _ _ => rfl) (hs.symm.trans h)

/-- Settles O49: both steps, with the unwritten values forgotten, are the step from the one state the two share. -/
theorem unwrittenValuesAreNeverObserved : Obligations.UnwrittenValuesAreNeverObserved := by
  intro s t s' t' hst hs ht
  have hs := step_forgetUnwritten hs
  rw [hst, step_forgetUnwritten ht] at hs
  injection hs with hs
  exact hs.symm

/-! ## The fault record (10_state.md R25, 60_exceptions.md R161 to R167) -/

@[simp] theorem State.faultRecordSound_respond (s : State) (st : Status) (d : Option Word) :
    (s.respond st d).faultRecordSound = s.faultRecordSound := by
  simp [State.faultRecordSound]

@[simp] theorem State.faultRecordSound_driven (s : State) (l : List HostAction) :
    (s.driven l).faultRecordSound = s.faultRecordSound := by
  simp [State.faultRecordSound]

/-- Without a fault the record tells the truth exactly when CAUSE and FCMD are at their reset values. -/
theorem State.faultRecordSound_iff_of_not_fault {s : State} (h : s.fault = false) :
    s.faultRecordSound = true ↔ s.cause = .none ∧ s.fcmd = 0#32 := by
  cases hc : s.cause <;> simp [State.faultRecordSound, h, hc]

@[simp] theorem State.faultRecordSound_resetBlock (s : State) : s.resetBlock.faultRecordSound = true :=
  (State.faultRecordSound_iff_of_not_fault rfl).2 ⟨rfl, rfl⟩

theorem State.faultRecordSound_raiseFault_illegal (s : State) {cmd : Word} (h : legal cmd = false) :
    (s.raiseFault .illegalCommand cmd).faultRecordSound = true := by
  simp [State.faultRecordSound, h]

theorem State.faultRecordSound_raiseFault_unwritten {s : State} {i : Instr} (hwf : i.wf = true)
    (hw : s.allWritten (readSet i) = false) :
    (s.raiseFault .uninitRead (encodeCmd i)).faultRecordSound = true := by
  simp [State.faultRecordSound, decode_encodeCmd hwf, hw]

theorem faultRecordSound_rejectIllegal {s : State} {cmd : Word} (h : s.faultRecordSound = true)
    (hl : legal cmd = false) : (s.rejectIllegal cmd).faultRecordSound = true := by
  cases hf : s.fault
  · rw [State.rejectIllegal_of_not_fault hf]
    exact s.faultRecordSound_raiseFault_illegal hl
  · rw [State.rejectIllegal_of_fault hf, State.drop_eq, State.faultRecordSound_respond, h]

/-- Every ending of a command keeps the record truthful: a drop and a completed command leave it as it is, and a fault
writes a true one. -/
theorem faultRecordSound_of_exec {i : Instr} {s t : State} (hs : s.faultRecordSound = true) (h : exec i s = .next t) :
    t.faultRecordSound = true := by
  obtain ⟨-, rfl⟩ | ⟨-, hwf, rfl⟩ | ⟨-, hwf, hw, rfl⟩ | ⟨hf, -, -, rfl⟩ := exec_cases h
  · rw [State.drop_eq, State.faultRecordSound_respond, hs]
  · exact s.faultRecordSound_raiseFault_illegal ((legal_encodeCmd i).trans hwf)
  · exact State.faultRecordSound_raiseFault_unwritten hwf hw
  · have hrec := (State.faultRecordSound_iff_of_not_fault hf).1 hs
    rw [State.faultRecordSound_iff_of_not_fault (by simp [hf])]
    simpa using hrec

/-- Settles O48: after reset no fault is recorded. -/
theorem resetHasASoundFaultRecord : Obligations.ResetHasASoundFaultRecord :=
  (State.faultRecordSound_iff_of_not_fault rfl).2 ⟨rfl, rfl⟩

/-- Settles O47, along the four things a step can do. -/
theorem stepKeepsTheFaultRecordSound : Obligations.StepKeepsTheFaultRecordSound := by
  intro s t hsound h
  obtain ⟨-, hs⟩ | ⟨rest, -, hs⟩ | ⟨cmd, dataIn, rest, e, -, hd, hs⟩ | ⟨cmd, dataIn, rest, i, -, -, hs⟩ := step_cases s
  · cases hs.symm.trans h
    exact hsound
  · cases hs.symm.trans h
    exact State.faultRecordSound_resetBlock _
  · cases hs.symm.trans h
    exact faultRecordSound_rejectIllegal (by simpa using hsound) (legal_eq_false_of_decode_error hd)
  · exact faultRecordSound_of_exec (by simpa using hsound) (hs.symm.trans h)

end Sys2Proof.Machine

/-! # Proofs: memory (20_memory.md)

A register changes only by a host action that can write it; hence RD answers alike until such an action, and loading a
value again changes nothing. -/

namespace Sys2Proof.Machine

/-! ## A command that completes -/

/-- From a block that has not faulted, a well-formed command whose reads are written runs its own rule. -/
theorem exec_of_ready {i : Instr} {s : State} (hf : s.fault = false) (hwf : i.wf = true)
    (hw : s.allWritten (readSet i) = true) : exec i s = .next (performs i s) := by
  rw [exec_eq_process, State.process_of_ready _ hf ((legal_encodeCmd i).trans hwf) hw]

theorem exec_rd_of_written {sel : OpReg} {s : State} (hf : s.fault = false) (hw : s.written sel = true) :
    exec (.rd sel) s = .next (s.respond .done (some (s.reg sel))) :=
  exec_of_ready hf rfl (by simp [State.allWritten, readSet, hw])

theorem exec_ld_of_not_fault {s : State} (hf : s.fault = false) (sel : OpReg) (v : Word) :
    exec (.ld sel v) s = .next ((s.setReg sel v).respond .done none) :=
  exec_of_ready hf rfl rfl

/-- RD answers with the operand it selects, from whatever state holds it. -/
theorem exec_rd_of_operand_eq {sel : OpReg} {s u : State} (hf : u.fault = false) (hw : s.written sel = true)
    (h : u.operand sel = s.operand sel) :
    exec (.rd sel) u = .next (u.respond .done (some (s.reg sel))) := by
  have hwu : u.written sel = true := by rw [State.written, h, ← State.written, hw]
  have hru : u.reg sel = s.reg sel := by rw [State.reg, h, ← State.reg]
  rw [exec_rd_of_written hf hwu, hru]

/-- LD of a value into the register that the same LD has just written is no change, the response included. -/
theorem setReg_respond_repeat (s : State) (sel : OpReg) (v : Word) (status : Status) (d : Option Word) :
    (((s.setReg sel v).respond status d).setReg sel v).respond status d = (s.setReg sel v).respond status d := by
  cases sel <;> rfl

/-! ## What a step takes from the host, and what it can write -/

@[simp] theorem State.operand_rejectIllegal (s : State) (cmd : Word) (r : OpReg) :
    (s.rejectIllegal cmd).operand r = s.operand r := by
  cases h : s.fault
  · simp [State.rejectIllegal_of_not_fault h]
  · simp [State.rejectIllegal_of_fault h]

@[simp] theorem State.host_rejectIllegal (s : State) (cmd : Word) : (s.rejectIllegal cmd).host = s.host := by
  cases h : s.fault
  · simp [State.rejectIllegal_of_not_fault h]
  · simp [State.rejectIllegal_of_fault h]

/-- Every step has a next state (00_scope.md R14). -/
theorem exists_step_eq_next (s : State) : ∃ t, step s = .next t := by
  obtain ⟨-, hs⟩ | ⟨rest, -, hs⟩ | ⟨cmd, dataIn, rest, e, -, -, hs⟩ | ⟨cmd, dataIn, rest, i, -, -, hs⟩ := step_cases s
  · exact ⟨_, hs⟩
  · exact ⟨_, hs⟩
  · exact ⟨_, hs⟩
  · exact ⟨_, hs.trans (exec_eq_process i _)⟩

/-- A step takes the host's next action and leaves the later ones. -/
theorem host_of_step {s t : State} (h : step s = .next t) : t.host = s.host.tail := by
  obtain ⟨hh, hs⟩ | ⟨rest, hh, hs⟩ | ⟨cmd, dataIn, rest, e, hh, -, hs⟩ | ⟨cmd, dataIn, rest, i, hh, -, hs⟩ := step_cases s
  · cases hs.symm.trans h
    simp [hh]
  · cases hs.symm.trans h
    simp [hh]
  · cases hs.symm.trans h
    simp [hh]
  · rw [host_of_exec (hs.symm.trans h), hh]
    rfl

theorem mayWrite_command_of_decode {cmd dataIn : Word} {i : Instr} (h : decode cmd dataIn = .ok i) (r : OpReg) :
    mayWrite r (.command cmd dataIn) = decide (r ∈ writeSet i) := by
  simp only [mayWrite, h]

/-- A step changes a register only when the action it takes can write it (43_host_transfer.md R142). -/
theorem operand_of_step {s t : State} {r : OpReg} (h : step s = .next t)
    (hw : ∀ a ∈ s.host.head?, mayWrite r a = false) : t.operand r = s.operand r := by
  obtain ⟨-, hs⟩ | ⟨rest, hh, hs⟩ | ⟨cmd, dataIn, rest, e, -, -, hs⟩ | ⟨cmd, dataIn, rest, i, hh, hd, hs⟩ := step_cases s
  · cases hs.symm.trans h
    rfl
  · exact absurd (hw .reset (by simp [hh])) (by simp [mayWrite])
  · cases hs.symm.trans h
    simp
  · have hmem := hw (.command cmd dataIn) (by simp [hh])
    rw [mayWrite_command_of_decode hd, decide_eq_false_iff_not] at hmem
    rw [operand_of_exec (hs.symm.trans h) hmem, State.operand_driven]

/-- A register survives a run of any length when none of the host's actions can write it. -/
theorem operand_of_run {r : OpReg} {n : Nat} {s u : State} (hw : ∀ a ∈ s.host, mayWrite r a = false)
    (h : core.run n s = .next u) : u.operand r = s.operand r := by
  induction n generalizing s with
  | zero =>
    cases (core_run_zero s).symm.trans h
    rfl
  | succ n ih =>
    obtain ⟨t, ht⟩ := exists_step_eq_next s
    rw [core_run_succ ht] at h
    have hlater : ∀ a ∈ t.host, mayWrite r a = false := by
      rw [host_of_step ht]
      exact fun a ha => hw a (List.mem_of_mem_tail ha)
    calc u.operand r = t.operand r := ih hlater h
      _ = s.operand r := operand_of_step ht fun a ha => hw a (List.mem_of_mem_head? ha)

/-- Settles O28: RD answers from the operand it selects, which the run between two RDs keeps, and LD of the same value
writes what is there. -/
theorem readsHaveNoSideEffectAndLoadsRepeat : Obligations.ReadsHaveNoSideEffectAndLoadsRepeat := by
  refine ⟨?_, ?_⟩
  · intro sel s t hf hw h
    cases (exec_rd_of_written hf hw).symm.trans h
    refine ⟨rfl, ?_, ?_, ?_⟩
    · exact exec_rd_of_operand_eq hf hw (by simp)
    · exact fun u hfu hu => exec_rd_of_operand_eq hfu hw hu
    · intro between u hbetween hrun hfu
      have hu : u.operand sel = s.operand sel := by simpa using operand_of_run (by simpa using hbetween) hrun
      exact exec_rd_of_operand_eq hfu hw hu
  · intro sel v s t hf h
    cases (exec_ld_of_not_fault hf sel v).symm.trans h
    rw [exec_ld_of_not_fault (by simpa using hf), setReg_respond_repeat]

end Sys2Proof.Machine

/-! # Proofs: command encoding (30_encoding.md)

A word decodes to an instruction exactly when it is that instruction's command word, and an illegal word, whatever makes
it illegal, faults in one and the same way. -/

namespace Sys2Proof

/-! ## The decoder is the inverse of the encoder (30_encoding.md R61 to R67) -/

theorem withData_encodeData (i : Instr) : i.withData (encodeData i) = i := by
  cases i <;> rfl

theorem withData_eq_self_of_ne_ld {i : Instr} (h : ∀ sel v, i ≠ .ld sel v) (d : Word) : i.withData d = i := by
  cases i with
  | ld sel v => exact absurd rfl (h sel v)
  | _ => rfl

/-- What the host sends when it means the well-formed instruction `i`: its command word, and a data word that is LD's
operand and free with any other command (30_encoding.md R61, R66). -/
structure Instr.SentAs (i : Instr) (cmd d : Word) : Prop where
  wf : i.wf = true
  word : encodeCmd i = cmd
  data : i.withData d = i

/-- A word with zero reserved bits and opcode `op` is the command word of its argument. -/
theorem commandWord_argField {cmd : Word} {op : BitVec 8} (hr : rsvField cmd = 0#20)
    (hop : (opField cmd).toNat = op.toNat) : commandWord (argField cmd) op = cmd := by
  rw [← BitVec.eq_of_toNat_eq hop, commandWord_fields hr]

section
variable {cmd d : Word} {i : Instr} (op : BitVec 8) (hr : rsvField cmd = 0#20)
  (hop : (opField cmd).toNat = op.toNat)
include hr hop

theorem sentAs_of_withSelector {make : OpReg → Instr} (h : withSelector cmd make = .ok i)
    (hmake : ∀ r, (make r).SentAs (commandWord (selectorOf r) op) d) : i.SentAs cmd d := by
  unfold withSelector at h
  split at h
  next r hsel =>
    injection h with h
    rw [← h, ← commandWord_argField hr hop, ← selectorOf_of_selected hsel]
    exact hmake r
  next => cases h

theorem sentAs_of_withStep {make : BitVec 4 → Instr} (h : withStep cmd make = .ok i)
    (hmake : ∀ a, stepInRange a = true → (make a).SentAs (commandWord a op) d) : i.SentAs cmd d := by
  unfold withStep at h
  split at h
  next hstep =>
    injection h with h
    rw [← h]
    simpa only [commandWord_argField hr hop] using hmake (argField cmd) hstep
  next => cases h

theorem sentAs_of_withoutArgument {j : Instr} (h : withoutArgument cmd j = .ok i)
    (hj : j.SentAs (commandWord 0#4 op) d) : i.SentAs cmd d := by
  unfold withoutArgument at h
  split at h
  next harg =>
    injection h with h
    rw [← h, ← commandWord_argField hr hop, harg]
    exact hj
  next => cases h

end

/-- Each row of the opcode map gives back the instruction whose word it is (30_encoding.md R67). -/
theorem sentAs_of_decodeOpcode {cmd d : Word} {i : Instr} (hr : rsvField cmd = 0#20)
    (h : decodeOpcode cmd d = .ok i) : i.SentAs cmd d := by
  unfold decodeOpcode at h
  split at h
  next hop => exact sentAs_of_withSelector 0x01#8 hr hop h fun _ => ⟨rfl, rfl, rfl⟩
  next hop => exact sentAs_of_withSelector 0x02#8 hr hop h fun _ => ⟨rfl, rfl, rfl⟩
  next hop => exact sentAs_of_withoutArgument 0x10#8 hr hop h ⟨rfl, rfl, rfl⟩
  next hop => exact sentAs_of_withoutArgument 0x11#8 hr hop h ⟨rfl, rfl, rfl⟩
  next hop => exact sentAs_of_withStep 0x20#8 hr hop h fun _ ha => ⟨ha, rfl, rfl⟩
  next hop => exact sentAs_of_withStep 0x21#8 hr hop h fun _ ha => ⟨ha, rfl, rfl⟩
  next hop => exact sentAs_of_withoutArgument 0x22#8 hr hop h ⟨rfl, rfl, rfl⟩
  next hop => exact sentAs_of_withoutArgument 0x30#8 hr hop h ⟨rfl, rfl, rfl⟩
  next hop => exact sentAs_of_withoutArgument 0x31#8 hr hop h ⟨rfl, rfl, rfl⟩
  next => cases h

/-- The decoder answers with the one instruction that the host sends as these words. -/
theorem decode_eq_ok_iff {cmd d : Word} {i : Instr} : decode cmd d = .ok i ↔ i.SentAs cmd d := by
  constructor
  · intro h
    unfold decode at h
    split at h
    next hr => exact sentAs_of_decodeOpcode hr h
    next => cases h
  · rintro ⟨hwf, rfl, hdata⟩
    rw [decode_encodeCmd hwf, hdata]

/-- Settles O2: the command word decodes to the instruction with the data word put in, which only LD takes. -/
theorem decodeOfEncodeIsIdentity : Obligations.DecodeOfEncodeIsIdentity := by
  intro i hwf
  constructor
  · rw [decode_encodeCmd hwf, withData_encodeData]
  · intro hld d
    rw [decode_encodeCmd hwf, withData_eq_self_of_ne_ld hld]

/-- Settles O3, from what the host sends for the instruction the word decodes to. -/
theorem encodeOfDecodeIsTheWord : Obligations.EncodeOfDecodeIsTheWord := by
  intro cmd d i h
  obtain ⟨hwf, hcmd, hdata⟩ := decode_eq_ok_iff.1 h
  refine ⟨hwf, hcmd, ?_⟩
  rintro sel v rfl
  injection hdata with _ hdv
  exact hdv.symm

/-- Settles O1: each word is the command word of its instruction. -/
theorem decodesWordsOfEveryOpcode : Obligations.DecodesWordsOfEveryOpcode :=
  ⟨decode_encodeCmd (i := .ld .k3 0x42424242#32) rfl _, decode_encodeCmd (i := .rd .y) rfl _,
    decode_encodeCmd (i := .boxf) rfl _, decode_encodeCmd (i := .boxi) rfl _,
    decode_encodeCmd (i := .roundf 9#4) rfl _, decode_encodeCmd (i := .roundi 1#4) rfl _,
    decode_encodeCmd (i := .whiten) rfl _, decode_encodeCmd (i := .enc) rfl _, decode_encodeCmd (i := .dec) rfl _⟩

/-! ## Legality, by the kind of argument the opcode takes (30_encoding.md R69) -/

theorem legal_eq_false_of_rsvField_ne {cmd : Word} (h : rsvField cmd ≠ 0#20) : legal cmd = false := by
  simp [legal, h]

theorem legal_of_selector_opcode {cmd : Word} (h : opField cmd ∈ [0x01#8, 0x02#8]) :
    legal cmd = (rsvField cmd == 0#20 && (selected (argField cmd)).isSome) := by
  rw [selected_isSome]
  simp only [List.mem_cons, List.not_mem_nil, or_false] at h
  obtain h | h := h <;> simp [legal, h]

theorem legal_of_step_opcode {cmd : Word} (h : opField cmd = 0x20#8 ∨ opField cmd = 0x21#8) :
    legal cmd = (rsvField cmd == 0#20 && decide ((argField cmd).toNat ≤ 9)) := by
  obtain h | h := h <;> simp [legal, h]

theorem legal_of_argument_free_opcode {cmd : Word} (h : opField cmd ∈ [0x10#8, 0x11#8, 0x22#8, 0x30#8, 0x31#8]) :
    legal cmd = (rsvField cmd == 0#20 && (argField cmd).toNat == 0) := by
  simp only [List.mem_cons, List.not_mem_nil, or_false] at h
  obtain h | h | h | h | h := h <;> simp [legal, h]

theorem exists_decode_eq_error {cmd : Word} (h : legal cmd = false) (d : Word) : ∃ e, decode cmd d = .error e := by
  rw [← decode_isOk cmd d] at h
  match hd : decode cmd d with
  | .ok i => simp [hd] at h
  | .error e => exact ⟨e, rfl⟩

/-- The data word reaches the decoder's answer only under LD's opcode (30_encoding.md R66). -/
theorem decode_eq_of_opField_ne {cmd : Word} (h : opField cmd ≠ 0x01#8) (d e : Word) :
    decode cmd d = decode cmd e := by
  unfold decode decodeOpcode
  split
  next =>
    split
    next hop => exact absurd (BitVec.eq_of_toNat_eq hop) h
    all_goals rfl
  next => rfl

end Sys2Proof

namespace Sys2Proof.Machine

/-! ## Illegal words fault (30_encoding.md R62 to R65) -/

/-- A block that has not faulted enters the fault state with ILLEGAL_COMMAND on every illegal word. -/
theorem step_of_not_legal {s : State} {cmd d : Word} {rest : List HostAction} (hf : s.fault = false)
    (hh : s.host = .command cmd d :: rest) (hl : legal cmd = false) :
    step s = .next ((s.driven rest).raiseFault .illegalCommand cmd) := by
  obtain ⟨e, he⟩ := exists_decode_eq_error hl d
  rw [step_illegal hh he, State.rejectIllegal_of_not_fault (s := s.driven rest) hf]

/-- Settles O7: both kinds of word are illegal. -/
theorem reservedBitsAndStrayArgumentsFault : Obligations.ReservedBitsAndStrayArgumentsFault := by
  intro s cmd d rest hf hh hbad
  refine step_of_not_legal hf hh ?_
  obtain hrsv | ⟨hop, harg⟩ := hbad
  · exact legal_eq_false_of_rsvField_ne hrsv
  · have hne : (argField cmd).toNat ≠ 0 := fun hz => harg (BitVec.eq_of_toNat_eq hz)
    simp [legal_of_argument_free_opcode hop, hne]

/-- The seven rows of the selector table that name a register (30_encoding.md R65). -/
theorem eq_selectorOf_of_mem_table :
    ∀ p ∈ [(0#4, OpReg.x), (1#4, .y), (2#4, .c), (4#4, .k0), (5#4, .k1), (6#4, .k2), (7#4, .k3)],
      p.1 = selectorOf p.2 := by
  decide

/-- The nine rows of the selector table that are reserved (30_encoding.md R65). -/
theorem selected_eq_none_of_reserved :
    ∀ sel ∈ [3#4, 8#4, 9#4, 10#4, 11#4, 12#4, 13#4, 14#4, 15#4], selected sel = none := by
  decide

/-- Settles O8: the named selectors are the encoder's, and the reserved ones make the word illegal. -/
theorem selectorsNameTheSevenRegisters : Obligations.SelectorsNameTheSevenRegisters := by
  constructor
  · intro p hp d
    rw [eq_selectorOf_of_mem_table p hp]
    exact ⟨decode_encodeCmd (i := .ld p.2 d) rfl d, decode_encodeCmd (i := .rd p.2) rfl d⟩
  · intro sel hsel op hop s d rest hf hh
    refine step_of_not_legal hf hh ?_
    rw [legal_of_selector_opcode (by simpa using hop)]
    simp [selected_eq_none_of_reserved sel hsel]

/-! ## The round index (30_encoding.md R64) -/

/-- Settles O9: an index up to 9 is a well-formed operand, a larger one makes the word illegal, and the four bits enter
the round as the same number in 32 bits. -/
theorem stepFieldIsTheRoundIndex : Obligations.StepFieldIsTheRoundIndex := by
  refine ⟨?_, ?_, ?_⟩
  · intro a d ha
    have hwf := stepInRange_iff.2 ha
    exact ⟨decode_encodeCmd (i := .roundf a) hwf d, decode_encodeCmd (i := .roundi a) hwf d⟩
  · intro a op s d rest ha hop hf hh
    refine step_of_not_legal hf hh ?_
    rw [legal_of_step_opcode (by simpa using hop)]
    simp [ha]
  · intro a b k rcon _
    refine ⟨?_, rfl, rfl⟩
    simp only [inject, keyX, keyY, BitVec.ofNat_toNat, BitVec.zeroExtend]

/-! ## The data word (30_encoding.md R66) -/

theorem step_ld {s : State} {sel : OpReg} {d : Word} {rest : List HostAction} (hf : s.fault = false)
    (hh : s.host = .command (commandWord (selectorOf sel) 0x01#8) d :: rest) :
    step s = .next (((s.driven rest).setReg sel d).respond .done none) := by
  rw [step_legal hh (decode_encodeCmd (i := .ld sel d) rfl d)]
  exact exec_ld_of_not_fault (s := s.driven rest) hf sel d

/-- Two data words that the decoder does not tell apart give the same step. -/
theorem step_command_congr {cmd d e : Word} (h : decode cmd d = decode cmd e) (s : State) (rest : List HostAction) :
    step (s.driven (.command cmd d :: rest)) = step (s.driven (.command cmd e :: rest)) := by
  match hd : decode cmd d with
  | .ok i =>
    rw [step_legal (s.host_driven _) hd, step_legal (s.host_driven _) (h ▸ hd)]
    rfl
  | .error err =>
    rw [step_illegal (s.host_driven _) hd, step_illegal (s.host_driven _) (h ▸ hd)]
    rfl

/-- Settles O10: LD writes its data word, and under any other opcode the decoder does not look at it. -/
theorem dataInReachesOnlyLd : Obligations.DataInReachesOnlyLd := by
  constructor
  · intro s sel d rest hf hh
    exact ⟨_, step_ld hf hh, by simp⟩
  · intro s cmd d e rest hop
    exact step_command_congr (decode_eq_of_opField_ne hop d e) s rest

end Sys2Proof.Machine

/-! # Proofs: the mixing box (40_mixing_box.md)

Every single step of a box has an inverse step, so a box, a round and a schedule each undo their counterpart; a command
and its inverse then leave the block as it was. -/

namespace Sys2Proof.Machine

/-! ## The single steps and the boxes (40_mixing_box.md R82 to R84) -/

@[simp] theorem subX_addX (n : Nat) (b : Block) : subX n (addX n b) = b := by simp [subX, addX]

@[simp] theorem addX_subX (n : Nat) (b : Block) : addX n (subX n b) = b := by simp [subX, addX]

@[simp] theorem subY_addY (n : Nat) (b : Block) : subY n (addY n b) = b := by simp [subY, addY]

@[simp] theorem addY_subY (n : Nat) (b : Block) : addY n (subY n b) = b := by simp [subY, addY]

@[simp] theorem subPlain_addPlain (b : Block) : subPlain (addPlain b) = b := by simp [subPlain, addPlain]

@[simp] theorem addPlain_subPlain (b : Block) : addPlain (subPlain b) = b := by simp [subPlain, addPlain]

@[simp] theorem xorC_xorC (c : Word) (b : Block) : xorC c (xorC c b) = b := by simp [xorC]

@[simp] theorem boxInv_boxFwd (b : Block) (c : Word) : boxInv (boxFwd b c) c = b := by simp [boxInv, boxFwd]

@[simp] theorem boxFwd_boxInv (b : Block) (c : Word) : boxFwd (boxInv b c) c = b := by simp [boxInv, boxFwd]

/-- Settles O12: the box is the composition of its single steps, each one line of the listing. -/
theorem boxForwardIsTheTwelveSteps : Obligations.BoxForwardIsTheTwelveSteps := by
  intro x0 y0 c
  rfl

/-! ## Rounds, whitening and schedules (41_round_function.md R102 to R106, 42_round_schedule.md R123) -/

theorem xor_xor_xor_xor_cancel (v m k : Word) : v ^^^ m ^^^ k ^^^ m ^^^ k = v := by
  rw [BitVec.xor_assoc (v ^^^ m), BitVec.xor_comm k m]
  simp [← BitVec.xor_assoc]

@[simp] theorem inject_inject (b : Block) (k : Key) (step : Nat) : inject (inject b k step) k step = b := by
  simp [inject, xor_xor_xor_xor_cancel]

@[simp] theorem whiten_whiten (b : Block) (k : Key) : whiten (whiten b k) k = b := by
  simp [whiten]

@[simp] theorem roundInv_roundFwd (rcon : Rcon) (k : Key) (step : Nat) (b : Block) :
    roundInv rcon k step (roundFwd rcon k step b) = b := by
  simp [roundInv, roundFwd]

@[simp] theorem roundFwd_roundInv (rcon : Rcon) (k : Key) (step : Nat) (b : Block) :
    roundFwd rcon k step (roundInv rcon k step b) = b := by
  simp [roundInv, roundFwd]

/-- Steps that each have an inverse are undone by the inverses in reverse order. -/
theorem foldl_reverse_foldl {α β : Type} {f g : β → α → β} (h : ∀ b a, g (f b a) a = b) (l : List α) (b : β) :
    l.reverse.foldl g (l.foldl f b) = b := by
  induction l generalizing b with
  | nil => rfl
  | cons a l ih => simp [ih, h]

@[simp] theorem decrypt_encrypt (rcon : Rcon) (k : Key) (b : Block) : decrypt rcon k (encrypt rcon k b) = b := by
  rw [decrypt, encrypt, whiten_whiten]
  exact foldl_reverse_foldl (fun b step => roundInv_roundFwd rcon k step b) _ b

@[simp] theorem encrypt_decrypt (rcon : Rcon) (k : Key) (b : Block) : encrypt rcon k (decrypt rcon k b) = b := by
  have hrounds := foldl_reverse_foldl (f := fun b step => roundInv rcon k step b)
    (g := fun b step => roundFwd rcon k step b) (fun b step => roundFwd_roundInv rcon k step b)
    (List.range Config.rounds).reverse (whiten b k)
  rw [List.reverse_reverse] at hrounds
  rw [encrypt, decrypt, hrounds, whiten_whiten]

/-! ## A transforming command that completes (40_mixing_box.md R87, R88) -/

theorem State.ready_iff {s : State} {reads : List OpReg} :
    s.ready reads = true ↔ s.fault = false ∧ s.allWritten reads = true := by
  simp [State.ready]

/-- From a ready state a transforming command writes the block it computes and answers DONE. -/
theorem exec_of_ready_of_transforms {i : Instr} {s : State} (hi : transforms i = true) (hwf : i.wf = true)
    (hs : s.ready (readSet i) = true) :
    exec i s = .next ((s.setBlock (transformed i s)).respond .done none) := by
  obtain ⟨hf, hw⟩ := State.ready_iff.1 hs
  rw [exec_of_ready hf hwf hw, performs_of_transforms hi, State.done_eq]

/-- Settles O21: BOXF writes the forward box of X, Y and C. -/
theorem boxfCompletes : Obligations.BoxfCompletes :=
  fun _ hs => exec_of_ready_of_transforms (i := .boxf) rfl rfl hs

/-- Settles O22: BOXI writes the inverse box of X, Y and C. -/
theorem boxiCompletes : Obligations.BoxiCompletes :=
  fun _ hs => exec_of_ready_of_transforms (i := .boxi) rfl rfl hs

/-! ## Inverse commands (40_mixing_box.md R88, 41_round_function.md R108, R109, 42_round_schedule.md R124, R125) -/

/-- The command that undoes a transforming command. LD and RD have none and stand for themselves. -/
def inverse : Instr → Instr
  | .ld sel dataIn => .ld sel dataIn
  | .rd sel => .rd sel
  | .boxf => .boxi
  | .boxi => .boxf
  | .roundf step => .roundi step
  | .roundi step => .roundf step
  | .whiten => .whiten
  | .enc => .dec
  | .dec => .enc

@[simp] theorem transforms_inverse (i : Instr) : transforms (inverse i) = transforms i := by
  cases i <;> rfl

@[simp] theorem wf_inverse (i : Instr) : (inverse i).wf = i.wf := by
  cases i <;> rfl

@[simp] theorem readSet_inverse (i : Instr) : readSet (inverse i) = readSet i := by
  cases i <;> rfl

@[simp] theorem transformed_respond (i : Instr) (s : State) (status : Status) (d : Option Word) :
    transformed i (s.respond status d) = transformed i s := by
  cases i <;> rfl

/-- What a command computes, its inverse command computes back, since C, the keys and the ROM stay as they are. -/
theorem transformed_inverse {i : Instr} (hi : transforms i = true) (s : State) :
    transformed (inverse i) (s.setBlock (transformed i s)) = s.block := by
  cases i with
  | ld sel dataIn => cases hi
  | rd sel => cases hi
  | boxf => exact boxInv_boxFwd s.block (s.reg .c)
  | boxi => exact boxFwd_boxInv s.block (s.reg .c)
  | roundf step => exact roundInv_roundFwd s.rcon s.key step.toNat s.block
  | roundi step => exact roundFwd_roundInv s.rcon s.key step.toNat s.block
  | whiten => exact whiten_whiten s.block s.key
  | enc => exact decrypt_encrypt s.rcon s.key s.block
  | dec => exact encrypt_decrypt s.rcon s.key s.block

theorem State.ready_setBlock {s : State} {reads : List OpReg} (h : s.ready reads = true) (b : Block) :
    (s.setBlock b).ready reads = true := by
  obtain ⟨hf, hw⟩ := State.ready_iff.1 h
  refine State.ready_iff.2 ⟨hf, List.all_eq_true.2 fun r hr => ?_⟩
  simp [State.setBlock, List.all_eq_true.1 hw r hr]

@[simp] theorem State.ready_respond (s : State) (status : Status) (d : Option Word) (reads : List OpReg) :
    (s.respond status d).ready reads = s.ready reads := by
  simp [State.ready]

theorem State.setBlock_respond (s : State) (status : Status) (d : Option Word) (b : Block) :
    (s.respond status d).setBlock b = (s.setBlock b).respond status d := rfl

theorem State.respond_respond (s : State) (status status' : Status) (d d' : Option Word) :
    (s.respond status d).respond status' d' = s.respond status' d' := rfl

/-- Writing a state's own block over another one gives the state back when X and Y were written to begin with: the write
sets both written bits (10_state.md R24). -/
theorem State.setBlock_setBlock_block {s : State} (hx : s.written .x = true) (hy : s.written .y = true) (b : Block) :
    (s.setBlock b).setBlock s.block = s := by
  have hsx : (⟨s.reg .x, true⟩ : OperandReg) = s.x := by rw [← hx]; rfl
  have hsy : (⟨s.reg .y, true⟩ : OperandReg) = s.y := by rw [← hy]; rfl
  simp only [State.setBlock, State.setReg, State.block, hsx, hsy]

/-- A transforming command and then its inverse leave a ready state as it was, but for the response. -/
theorem exec_inverse_of_exec {i : Instr} {s t : State} (hi : transforms i = true) (hwf : i.wf = true)
    (hs : s.ready (readSet i) = true) (ht : exec i s = .next t) :
    exec (inverse i) t = .next (s.respond .done none) := by
  cases (exec_of_ready_of_transforms hi hwf hs).symm.trans ht
  obtain ⟨-, hw⟩ := State.ready_iff.1 hs
  have hx : s.written .x = true := List.all_eq_true.1 hw _ (xy_mem_readSet hi).1
  have hy : s.written .y = true := List.all_eq_true.1 hw _ (xy_mem_readSet hi).2
  rw [exec_of_ready_of_transforms (by simpa using hi) (by simpa using hwf) (by simpa using State.ready_setBlock hs _),
    transformed_respond, transformed_inverse hi, State.setBlock_respond, State.setBlock_setBlock_block hx hy,
    State.respond_respond]

/-- Settles O29: each of the pairs is a transforming command and its inverse. -/
theorem inverseCommandsRestoreTheBlock : Obligations.InverseCommandsRestoreTheBlock := by
  intro i j s t u hpair hs ht hu
  have hinv : transforms i = true ∧ i.wf = true ∧ j = inverse i := by
    obtain ⟨rfl, rfl⟩ | ⟨rfl, rfl⟩ | ⟨step, hstep, ⟨rfl, rfl⟩ | ⟨rfl, rfl⟩⟩ | ⟨rfl, rfl⟩ | ⟨rfl, rfl⟩ | ⟨rfl, rfl⟩ := hpair
    · exact ⟨rfl, rfl, rfl⟩
    · exact ⟨rfl, rfl, rfl⟩
    · exact ⟨rfl, stepInRange_iff.2 hstep, rfl⟩
    · exact ⟨rfl, stepInRange_iff.2 hstep, rfl⟩
    · exact ⟨rfl, rfl, rfl⟩
    · exact ⟨rfl, rfl, rfl⟩
    · exact ⟨rfl, rfl, rfl⟩
  obtain ⟨hi, hwf, rfl⟩ := hinv
  cases (exec_inverse_of_exec hi hwf hs ht).symm.trans hu
  rfl

end Sys2Proof.Machine

/-! # Proofs: the round function (41_round_function.md)

A round index selects one of two key pairs, so the reads of a round command are X, Y and that pair; with them written,
ROUNDF, ROUNDI and WHITEN complete as every transforming command does. -/

namespace Sys2Proof.Machine

/-! ## The key pair of a round (41_round_function.md R100) -/

theorem keyWords_of_even {step : Nat} (h : step % 2 = 0) (k : Key) : keyX k step = k[0] ∧ keyY k step = k[1] := by
  simp [keyX, keyY, h]

theorem keyWords_of_odd {step : Nat} (h : step % 2 = 1) (k : Key) : keyX k step = k[2] ∧ keyY k step = k[3] := by
  simp [keyX, keyY, h]

/-- X, Y and the key pair of a round, as one list for each parity of its index. -/
theorem xy_append_keyPair (step : Nat) :
    [.x, .y] ++ keyPair step = if step % 2 = 0 then [OpReg.x, .y, .k0, .k1] else [.x, .y, .k2, .k3] := by
  unfold keyPair
  split
  · rfl
  · rfl

theorem readSet_roundf (step : BitVec 4) :
    readSet (.roundf step) = if step.toNat % 2 = 0 then [.x, .y, .k0, .k1] else [.x, .y, .k2, .k3] :=
  xy_append_keyPair step.toNat

theorem readSet_roundi (step : BitVec 4) :
    readSet (.roundi step) = if step.toNat % 2 = 0 then [.x, .y, .k0, .k1] else [.x, .y, .k2, .k3] :=
  xy_append_keyPair step.toNat

/-- Settles O15: the parity of the index selects the key words; the injection and the order of the two parts of a round
are the definitions themselves. -/
theorem roundsInjectTheirKeyPairAroundTheBox : Obligations.RoundsInjectTheirKeyPairAroundTheBox := by
  intro rcon k step b _
  exact ⟨fun h => keyWords_of_even h k, fun h => keyWords_of_odd h k, rfl, rfl, rfl, rfl, rfl⟩

/-! ## The commands (41_round_function.md R107 to R109) -/

/-- Settles O23: an index up to 9 is well formed, and the registers required are the read set. -/
theorem roundfCompletes : Obligations.RoundfCompletes := by
  intro step s hstep hs
  rw [← readSet_roundf] at hs
  exact exec_of_ready_of_transforms (i := .roundf step) rfl (stepInRange_iff.2 hstep) hs

/-- Settles O24: as for ROUNDF, with the inverse round. -/
theorem roundiCompletes : Obligations.RoundiCompletes := by
  intro step s hstep hs
  rw [← readSet_roundi] at hs
  exact exec_of_ready_of_transforms (i := .roundi step) rfl (stepInRange_iff.2 hstep) hs

/-- Settles O25: WHITEN writes the block whitened with the first key pair. -/
theorem whitenCompletes : Obligations.WhitenCompletes :=
  fun _ hs => exec_of_ready_of_transforms (i := .whiten) rfl rfl hs

end Sys2Proof.Machine

/-! # Proofs: the round schedule (42_round_schedule.md)

Each schedule is its ten rounds in a row, with the whitening last in ENC and first in DEC; both commands complete as
every transforming command does. -/

namespace Sys2Proof.Machine

/-! ## The schedules, unrolled (42_round_schedule.md R120, R121) -/

theorem encrypt_eq_whiten_rounds (rcon : Rcon) (k : Key) (b : Block) :
    encrypt rcon k b =
      let f := roundFwd rcon k
      whiten (f 9 (f 8 (f 7 (f 6 (f 5 (f 4 (f 3 (f 2 (f 1 (f 0 b)))))))))) k := rfl

theorem decrypt_eq_rounds_whiten (rcon : Rcon) (k : Key) (b : Block) :
    decrypt rcon k b =
      let g := roundInv rcon k
      g 0 (g 1 (g 2 (g 3 (g 4 (g 5 (g 6 (g 7 (g 8 (g 9 (whiten b k)))))))))) := rfl

/-- Settles O17: the bodies written out for a round and for the whitening are the definitions of `roundFwd`, `roundInv`
and `whiten`. -/
theorem schedulesAreTheTenRounds : Obligations.SchedulesAreTheTenRounds :=
  fun rcon k b => ⟨encrypt_eq_whiten_rounds rcon k b, decrypt_eq_rounds_whiten rcon k b⟩

/-! ## The commands (42_round_schedule.md R124, R125) -/

/-- Settles O26: ENC writes the encrypted block. -/
theorem encCompletes : Obligations.EncCompletes :=
  fun _ hs => exec_of_ready_of_transforms (i := .enc) rfl rfl hs

/-- Settles O27: DEC writes the decrypted block. -/
theorem decCompletes : Obligations.DecCompletes :=
  fun _ hs => exec_of_ready_of_transforms (i := .dec) rfl rfl hs

end Sys2Proof.Machine

/-! # Proofs: the transfer commands and the host's mappings (43_host_transfer.md)

LD and RD complete and change one register and none; a register changes only by the command that writes it; and the host
puts bytes into words, and takes them out again, the least significant byte first. -/

namespace Sys2Proof.Machine

/-! ## When a register changes (43_host_transfer.md R142) -/

/-- The commands with a register in their write set: LD of that register, and for X and Y the transforming commands. -/
theorem ld_or_transforms_of_mem_writeSet {i : Instr} {r : OpReg} (h : r ∈ writeSet i) :
    (∃ v, i = .ld r v) ∨ (transforms i = true ∧ (r = .x ∨ r = .y)) := by
  cases i with
  | ld sel v =>
    obtain rfl : r = sel := List.mem_singleton.1 h
    exact .inl ⟨v, rfl⟩
  | rd sel => cases h
  | _ => exact .inr ⟨rfl, by simpa [writeSet] using h⟩

theorem exists_decode_of_mayWrite_command {r : OpReg} {cmd dataIn : Word}
    (h : mayWrite r (.command cmd dataIn) = true) : ∃ i, decode cmd dataIn = .ok i ∧ r ∈ writeSet i := by
  match hd : decode cmd dataIn with
  | .ok i => exact ⟨i, rfl, by simpa [mayWrite_command_of_decode hd] using h⟩
  | .error e => simp [mayWrite, hd] at h

/-- Settles O32: the action a step takes can write the register that changes, and each action with that power is one of
the three. -/
theorem operandRegistersKeepTheirValue : Obligations.OperandRegistersKeepTheirValue := by
  intro s t r h hne
  obtain ⟨a, ha, hwrite⟩ : ∃ a ∈ s.host.head?, mayWrite r a = true := by
    by_contra hnone
    exact hne (operand_of_step h (by simpa using hnone))
  obtain ⟨rest, hh⟩ := List.head?_eq_some_iff.1 ha
  cases a with
  | reset => exact .inl ⟨rest, hh⟩
  | command cmd dataIn =>
    obtain ⟨i, hd, hmem⟩ := exists_decode_of_mayWrite_command hwrite
    obtain ⟨v, rfl⟩ | ⟨hi, hr⟩ := ld_or_transforms_of_mem_writeSet hmem
    · obtain ⟨-, -, hdata⟩ := encodeOfDecodeIsTheWord cmd dataIn _ hd
      obtain rfl := hdata r v rfl
      exact .inr (.inl ⟨cmd, _, rest, hh, hd⟩)
    · exact .inr (.inr ⟨cmd, dataIn, rest, i, hh, hd, hi, hr⟩)

/-! ## The bytes of a word (20_memory.md R45) -/

theorem extractLsb'_append_byte_zero {n : Nat} (hi : BitVec n) (lo : Byte) : (hi ++ lo).extractLsb' 0 8 = lo := by
  rw [BitVec.extractLsb'_append_eq_of_add_le le_rfl, BitVec.extractLsb'_eq_self]

theorem extractLsb'_append_byte_succ {n : Nat} (hi : BitVec n) (lo : Byte) (i : Nat) :
    (hi ++ lo).extractLsb' (8 * (i + 1)) 8 = hi.extractLsb' (8 * i) 8 :=
  BitVec.extractLsb'_append_eq_of_le (Nat.le_add_left 8 (8 * i))

/-- Byte `i` of the word built from the four bytes of a buffer that begin at `k` is the buffer's byte `k + i`. -/
theorem extractLsb'_wordOfBytes {n : Nat} (v : Vector Byte n) (k i : Nat) (hk : k + 3 < n) (hi : i < 4) :
    (wordOfBytes v[k] v[k + 1] v[k + 2] v[k + 3]).extractLsb' (8 * i) 8 = v[k + i] := by
  unfold wordOfBytes
  match i with
  | 0 => exact extractLsb'_append_byte_zero _ _
  | 1 =>
    rw [extractLsb'_append_byte_succ]
    exact extractLsb'_append_byte_zero _ _
  | 2 =>
    rw [extractLsb'_append_byte_succ, extractLsb'_append_byte_succ]
    exact extractLsb'_append_byte_zero _ _
  | 3 =>
    rw [extractLsb'_append_byte_succ, extractLsb'_append_byte_succ, extractLsb'_append_byte_succ]
    exact BitVec.extractLsb'_eq_self

theorem x_blockOfBytes_extractLsb' (v : Vector Byte 8) (i : Nat) (h : i < 4) :
    (blockOfBytes v).x.extractLsb' (8 * i) 8 = v[i] := by
  simpa [blockOfBytes] using extractLsb'_wordOfBytes v 0 i (by decide) h

theorem y_blockOfBytes_extractLsb' (v : Vector Byte 8) (i : Nat) (h : i < 4) :
    (blockOfBytes v).y.extractLsb' (8 * i) 8 = v[4 + i] :=
  extractLsb'_wordOfBytes v 4 i (by decide) h

theorem getElem_keyOfBytes (kb : Vector Byte 16) (i : Nat) (h : i < 4) :
    (keyOfBytes kb)[i] = wordOfBytes kb[4 * i] kb[4 * i + 1] kb[4 * i + 2] kb[4 * i + 3] := by
  match i with
  | 0 => rfl
  | 1 => rfl
  | 2 => rfl
  | 3 => rfl

/-! ## The output buffer (43_host_transfer.md R146) -/

theorem getElem_bytesOfBlock_x (b : Block) (i : Nat) (h : i < 4) :
    (bytesOfBlock b)[i] = b.x.extractLsb' (8 * i) 8 := by
  match i with
  | 0 => rfl
  | 1 => rfl
  | 2 => rfl
  | 3 => rfl

theorem getElem_bytesOfBlock_y (b : Block) (i : Nat) (h : i < 4) :
    (bytesOfBlock b)[4 + i] = b.y.extractLsb' (8 * i) 8 := by
  match i with
  | 0 => rfl
  | 1 => rfl
  | 2 => rfl
  | 3 => rfl

/-- A buffer loaded as a block and written out again is the buffer: its first four bytes go by X, the others by Y. -/
theorem bytesOfBlock_blockOfBytes (v : Vector Byte 8) : bytesOfBlock (blockOfBytes v) = v := by
  ext i hi : 1
  by_cases hx : i < 4
  · rw [getElem_bytesOfBlock_x _ i hx, x_blockOfBytes_extractLsb' v i hx]
  · obtain ⟨j, rfl⟩ := Nat.exists_eq_add_of_le (Nat.le_of_not_lt hx)
    have hj : j < 4 := by omega
    rw [getElem_bytesOfBlock_y _ j hj, y_blockOfBytes_extractLsb' v j hj]

/-! ## The integer and the word pair (43_host_transfer.md R144, R145) -/

theorem intOfBlock_blockOfInt (b : BitVec 64) : intOfBlock (blockOfInt b) = b :=
  BitVec.extractLsb'_append_extractLsb' (w := 32) (len := 32)

theorem pairOfBlock_blockOfPair (w : Vector Word 2) : pairOfBlock (blockOfPair w) = w := by
  ext i hi : 1
  match i with
  | 0 => rfl
  | 1 => rfl

/-- Settles O50: every mapping and its inverse; the bytes of the block and of the key are those of `wordOfBytes`. -/
theorem hostMappingsAreLittleEndian : Obligations.HostMappingsAreLittleEndian := by
  refine ⟨?_, ?_, ?_, ?_⟩
  · exact fun b => ⟨rfl, rfl, intOfBlock_blockOfInt b⟩
  · exact fun w => ⟨rfl, pairOfBlock_blockOfPair w⟩
  · exact fun v i h => ⟨x_blockOfBytes_extractLsb' v i h, y_blockOfBytes_extractLsb' v i h, bytesOfBlock_blockOfBytes v⟩
  · intro kb i j hi hj
    rw [getElem_keyOfBytes kb i hi]
    exact extractLsb'_wordOfBytes kb (4 * i) j (by omega) hj

/-! ## The two commands complete (43_host_transfer.md R140, R141) -/

/-- Settles O19: LD is the write of its register and the response. -/
theorem ldCompletes : Obligations.LdCompletes := by
  intro sel dataIn s hf
  refine ⟨_, exec_ld_of_not_fault hf sel dataIn, ?_, ?_, ?_, ?_⟩
  · simp
  · intro r hr
    simp [hr]
  · simp [State.sameRest]
  · simp

/-- Settles O20: RD of a written register is its response alone. -/
theorem rdCompletes : Obligations.RdCompletes :=
  fun _ _ hf hw => exec_rd_of_written hf hw

end Sys2Proof.Machine

/-! # Proofs: exceptions (60_exceptions.md)

A command on the port ends in one of four ways, tried in the order of R164: it is dropped, it is illegal, it reads an
unwritten register, or it runs its own rule. What a fault records and leaves alone, and what a faulted block does, are
read off these four. -/

namespace Sys2Proof

/-! ## The five kinds of illegal word (60_exceptions.md R162) -/

/-- The selectors that name no register are the nine reserved ones (30_encoding.md R65). -/
theorem selected_eq_none_iff :
    ∀ sel : BitVec 4, selected sel = none ↔ sel ∈ [3#4, 8#4, 9#4, 10#4, 11#4, 12#4, 13#4, 14#4, 15#4] := by
  decide

/-- Each branch of `Legal` that can be true belongs to one of the nine assigned opcodes (30_encoding.md R68). -/
theorem legal_eq_false_of_unassigned_opcode {cmd : Word}
    (h : opField cmd ∉ [0x01#8, 0x02#8, 0x10#8, 0x11#8, 0x20#8, 0x21#8, 0x22#8, 0x30#8, 0x31#8]) :
    legal cmd = false := by
  simp only [List.mem_cons, List.not_mem_nil, or_false] at h
  simp only [legal, Bool.and_eq_false_iff]
  right
  split
  all_goals bv_omega

/-- An assigned opcode takes a selector, a round index, or no argument (30_encoding.md R67). -/
theorem opcode_kinds (op : BitVec 8) :
    op ∉ [0x01#8, 0x02#8, 0x10#8, 0x11#8, 0x20#8, 0x21#8, 0x22#8, 0x30#8, 0x31#8] ∨
    op ∈ [0x01#8, 0x02#8] ∨ (op = 0x20#8 ∨ op = 0x21#8) ∨ op ∈ [0x10#8, 0x11#8, 0x22#8, 0x30#8, 0x31#8] := by
  simp only [List.mem_cons, List.not_mem_nil, or_false]
  tauto

/-- The five cases of 60_exceptions.md R162, by the kind of argument the opcode takes. -/
theorem legal_eq_false_iff (cmd : Word) : legal cmd = false ↔
    (rsvField cmd ≠ 0#20 ∨
     opField cmd ∉ [0x01#8, 0x02#8, 0x10#8, 0x11#8, 0x20#8, 0x21#8, 0x22#8, 0x30#8, 0x31#8] ∨
     (opField cmd ∈ [0x01#8, 0x02#8] ∧ argField cmd ∈ [3#4, 8#4, 9#4, 10#4, 11#4, 12#4, 13#4, 14#4, 15#4]) ∨
     (opField cmd ∈ [0x20#8, 0x21#8] ∧ 9 < (argField cmd).toNat) ∨
     (opField cmd ∈ [0x10#8, 0x11#8, 0x22#8, 0x30#8, 0x31#8] ∧ argField cmd ≠ 0#4)) := by
  by_cases hr : rsvField cmd = 0#20
  · obtain hop | hop | hop | hop := opcode_kinds (opField cmd)
    · exact iff_of_true (legal_eq_false_of_unassigned_opcode hop) (.inr (.inl hop))
    · rw [legal_of_selector_opcode hop, hr, ← selected_eq_none_iff]
      simp only [List.mem_cons, List.not_mem_nil, or_false] at hop
      obtain hop | hop := hop <;> simp [hop]
    · rw [legal_of_step_opcode hop, hr]
      obtain hop | hop := hop <;> simp [hop]
    · have harg : (argField cmd).toNat = 0 ↔ argField cmd = 0#4 := BitVec.toNat_inj (y := 0#4)
      rw [legal_of_argument_free_opcode hop, hr]
      simp only [List.mem_cons, List.not_mem_nil, or_false] at hop
      obtain hop | hop | hop | hop | hop := hop <;> simp [hop, harg]
  · exact iff_of_true (legal_eq_false_of_rsvField_ne hr) (.inl hr)

theorem legal_of_decode_ok {cmd d : Word} {i : Instr} (h : decode cmd d = .ok i) : legal cmd = true := by
  rw [← decode_isOk cmd d, h, isOk_ok]

theorem exists_decode_eq_ok {cmd : Word} (h : legal cmd = true) (d : Word) : ∃ i, decode cmd d = .ok i := by
  rw [← decode_isOk cmd d] at h
  match hd : decode cmd d with
  | .ok i => exact ⟨i, rfl⟩
  | .error e => simp [hd] at h

end Sys2Proof

namespace Sys2Proof.Machine

/-! ## The order of processing (60_exceptions.md R164) -/

theorem exec_of_fault {s : State} (hf : s.fault = true) (i : Instr) :
    exec i s = .next (s.respond .dropped none) := by
  rw [exec_eq_process, State.process_of_fault _ _ _ hf, State.drop_eq]

theorem exec_of_unwritten {i : Instr} {s : State} (hf : s.fault = false) (hwf : i.wf = true)
    (hw : s.allWritten (readSet i) = false) : exec i s = .next (s.raiseFault .uninitRead (encodeCmd i)) := by
  rw [exec_eq_process, State.process_of_unwritten _ hf ((legal_encodeCmd i).trans hwf) hw]

section
variable {s : State} {cmd dataIn : Word} {rest : List HostAction} (hh : s.host = .command cmd dataIn :: rest)
include hh

/-- A faulted block drops the command on the port, legal or not. -/
theorem step_of_fault (hf : s.fault = true) : step s = .next ((s.driven rest).respond .dropped none) := by
  match hd : decode cmd dataIn with
  | .ok i => rw [step_legal hh hd, exec_of_fault (s := s.driven rest) hf]
  | .error e => rw [step_illegal hh hd, State.rejectIllegal_of_fault (s := s.driven rest) hf, State.drop_eq]

theorem step_of_unwritten {i : Instr} (hf : s.fault = false) (hd : decode cmd dataIn = .ok i)
    (hw : s.allWritten (readSet i) = false) : step s = .next ((s.driven rest).raiseFault .uninitRead cmd) := by
  obtain ⟨hwf, rfl, -⟩ := decode_eq_ok_iff.1 hd
  rw [step_legal hh hd, exec_of_unwritten (s := s.driven rest) hf hwf (by simpa using hw)]

theorem step_of_ready {i : Instr} (hf : s.fault = false) (hd : decode cmd dataIn = .ok i)
    (hw : s.allWritten (readSet i) = true) : step s = .next (performs i (s.driven rest)) := by
  obtain ⟨hwf, -, -⟩ := decode_eq_ok_iff.1 hd
  rw [step_legal hh hd, exec_of_ready (s := s.driven rest) hf hwf (by simpa using hw)]

/-- The four ways the command on the port ends (60_exceptions.md R164). -/
theorem step_command_cases {t : State} (h : step s = .next t) :
    (s.fault = true ∧ t = (s.driven rest).respond .dropped none) ∨
    (s.fault = false ∧ legal cmd = false ∧ t = (s.driven rest).raiseFault .illegalCommand cmd) ∨
    (s.fault = false ∧ legal cmd = true ∧ t = (s.driven rest).raiseFault .uninitRead cmd) ∨
    (s.fault = false ∧ legal cmd = true ∧ ∃ i, t = performs i (s.driven rest)) := by
  cases hf : s.fault with
  | true =>
    cases (step_of_fault hh hf).symm.trans h
    exact .inl ⟨rfl, rfl⟩
  | false =>
    cases hl : legal cmd with
    | false =>
      cases (step_of_not_legal hf hh hl).symm.trans h
      exact .inr (.inl ⟨rfl, rfl, rfl⟩)
    | true =>
      obtain ⟨i, hd⟩ := exists_decode_eq_ok hl dataIn
      cases hw : s.allWritten (readSet i) with
      | false =>
        cases (step_of_unwritten hh hf hd hw).symm.trans h
        exact .inr (.inr (.inl ⟨rfl, rfl, rfl⟩))
      | true =>
        cases (step_of_ready hh hf hd hw).symm.trans h
        exact .inr (.inr (.inr ⟨rfl, rfl, i, rfl⟩))

end

/-- Settles O36: one equation of `step` for each case. -/
theorem commandsAreProcessedInOrder : Obligations.CommandsAreProcessedInOrder := by
  intro s cmd dataIn rest hh
  refine ⟨step_of_fault hh, fun hf hl => step_of_not_legal hf hh hl, fun hf hl => ?_⟩
  obtain ⟨i, hd⟩ := exists_decode_eq_ok hl dataIn
  refine ⟨i, hd, step_of_unwritten hh hf hd, fun hw => ?_⟩
  have hs := step_of_ready hh hf hd hw
  obtain ⟨d, hresp⟩ := resp_performs i (s.driven rest)
  exact ⟨_, d, hs, (step_legal hh hd).symm.trans hs, by simpa using hf, hresp⟩

/-- Settles O6: of the four ways a command ends, only the illegal one records ILLEGAL_COMMAND with FAULT set. -/
theorem illegalCommandExactlyOnIllegalWords : Obligations.IllegalCommandExactlyOnIllegalWords := by
  refine ⟨?_, legal_eq_false_iff⟩
  intro s t cmd dataIn rest hf hh h
  obtain ⟨hf', -⟩ | ⟨-, hl, rfl⟩ | ⟨-, hl, rfl⟩ | ⟨-, hl, i, rfl⟩ := step_command_cases hh h
  · cases hf'.symm.trans hf
  · simp [hl]
  · simp [hl]
  · simp [hl, hf]

/-! ## Reading an unwritten register (60_exceptions.md R163) -/

theorem State.allWritten_eq_false_iff {s : State} {reads : List OpReg} :
    s.allWritten reads = false ↔ ∃ r ∈ reads, s.written r = false := by
  simp [State.allWritten]

/-- Settles O35: a well-formed command that is not dropped raises UNINIT_READ or runs its own rule, as its read set is
written or not. -/
theorem uninitReadExactlyOnUnwrittenRegisters : Obligations.UninitReadExactlyOnUnwrittenRegisters := by
  refine ⟨?_, fun _ _ => rfl, fun _ => rfl, rfl, rfl, ?_, ?_, rfl, rfl, rfl⟩
  · intro i s t hwf hf h
    rw [← State.allWritten_eq_false_iff]
    cases hw : s.allWritten (readSet i) with
    | false =>
      cases (exec_of_unwritten hf hwf hw).symm.trans h
      simp
    | true =>
      cases (exec_of_ready hf hwf hw).symm.trans h
      simp [hf]
  · intro a ha
    simp [readSet_roundf, readSet_roundi, ha]
  · intro a ha
    simp [readSet_roundf, readSet_roundi, ha]

/-! ## Entering the fault state (60_exceptions.md R165, R166) -/

/-- A command that answers FAULT did nothing but enter the fault state. -/
theorem exec_fault_response {i : Instr} {s t : State} {d : Option Word} (h : exec i s = .next t)
    (hr : t.resp = some ⟨.fault, d⟩) : ∃ cause, t = s.raiseFault cause (encodeCmd i) := by
  obtain ⟨-, rfl⟩ | ⟨-, -, rfl⟩ | ⟨-, -, -, rfl⟩ | ⟨-, -, -, rfl⟩ := exec_cases h
  · simp at hr
  · exact ⟨_, rfl⟩
  · exact ⟨_, rfl⟩
  · obtain ⟨d', hdone⟩ := resp_performs i s
    simp [hdone] at hr

/-- A step that answers a command with FAULT entered the fault state, from a block that had not faulted, and did nothing
else. -/
theorem step_fault_response {s t : State} {cmd dataIn : Word} {rest : List HostAction} {d : Option Word}
    (hh : s.host = .command cmd dataIn :: rest) (h : step s = .next t) (hr : t.resp = some ⟨.fault, d⟩) :
    s.fault = false ∧ ∃ cause, (cause = .illegalCommand ∨ cause = .uninitRead) ∧
      t = (s.driven rest).raiseFault cause cmd := by
  obtain ⟨-, rfl⟩ | ⟨hf, -, rfl⟩ | ⟨hf, -, rfl⟩ | ⟨-, -, i, rfl⟩ := step_command_cases hh h
  · simp at hr
  · exact ⟨hf, _, .inl rfl, rfl⟩
  · exact ⟨hf, _, .inr rfl, rfl⟩
  · obtain ⟨d', hdone⟩ := resp_performs i (s.driven rest)
    simp [hdone] at hr

/-- Settles O37: entering the fault state writes no operand register. -/
theorem faultsArePrecise : Obligations.FaultsArePrecise := by
  constructor
  · intro s t cmd dataIn rest d hh h hr r
    obtain ⟨-, cause, -, rfl⟩ := step_fault_response hh h hr
    simp
  · intro i s t d h hr r
    obtain ⟨cause, rfl⟩ := exec_fault_response h hr
    simp

/-- Settles O38: the outputs show the record that entering the fault state wrote. -/
theorem faultEntryRecordsCauseAndCommand : Obligations.FaultEntryRecordsCauseAndCommand := by
  intro s t cmd dataIn rest d hh h hr
  obtain ⟨hf, cause, hcause, rfl⟩ := step_fault_response hh h hr
  refine ⟨hf, ⟨cause, hcause, rfl⟩, rfl, ?_, rfl⟩
  exact hcause.imp (congrArg causeCode) (congrArg causeCode)

/-! ## The faulted state (60_exceptions.md R167, R168) -/

/-- Everything but the response and the host's later actions is the same in both states. -/
def State.HoldsAs (s t : State) : Prop := ∃ actions resp, t = { s with host := actions, resp := resp }

theorem State.HoldsAs.trans {s t u : State} (hst : s.HoldsAs t) (htu : t.HoldsAs u) : s.HoldsAs u := by
  obtain ⟨_, _, rfl⟩ := hst
  obtain ⟨actions, resp, rfl⟩ := htu
  exact ⟨actions, resp, rfl⟩

theorem State.HoldsAs.fault_eq {s t : State} (h : s.HoldsAs t) : t.fault = s.fault := by
  obtain ⟨_, _, rfl⟩ := h
  rfl

/-- A faulted block holds its state over every step but a reset. -/
theorem holdsAs_of_step {s t : State} (hf : s.fault = true) (hno : ∀ rest, s.host ≠ .reset :: rest)
    (h : step s = .next t) : s.HoldsAs t := by
  match hh : s.host with
  | [] =>
    cases (step_idle hh).symm.trans h
    exact ⟨_, _, rfl⟩
  | .reset :: rest => exact absurd hh (hno rest)
  | .command cmd dataIn :: rest =>
    cases (step_of_fault hh hf).symm.trans h
    exact ⟨rest, some ⟨.dropped, none⟩, rfl⟩

/-- A faulted block holds its state over a run of any length without a reset. -/
theorem holdsAs_of_run {n : Nat} {s u : State} (hf : s.fault = true) (hcmd : commandsOnly s.host = true)
    (h : core.run n s = .next u) : s.HoldsAs u := by
  induction n generalizing s with
  | zero =>
    cases (core_run_zero s).symm.trans h
    exact ⟨_, _, rfl⟩
  | succ n ih =>
    obtain ⟨t, ht⟩ := exists_step_eq_next s
    rw [core_run_succ ht] at h
    have hno : ∀ a ∈ s.host, a ≠ .reset := by simpa [commandsOnly] using hcmd
    have hst : s.HoldsAs t := holdsAs_of_step hf (fun rest hh => hno .reset (by simp [hh]) rfl) ht
    have hlater : commandsOnly t.host = true := by
      rw [host_of_step ht]
      simpa [commandsOnly] using fun a ha => hno a (List.mem_of_mem_tail ha)
    exact hst.trans (ih (hst.fault_eq.trans hf) hlater h)

/-- Settles O39: every command is dropped, and a run of drops holds the state. -/
theorem faultedBlockDropsEveryCommand : Obligations.FaultedBlockDropsEveryCommand := by
  refine ⟨fun i s hf => exec_of_fault hf i, fun s cmd dataIn rest hf hh => step_of_fault hh hf, ?_⟩
  intro n s u hf hcmd h
  obtain ⟨actions, resp, rfl⟩ := holdsAs_of_run hf hcmd h
  exact ⟨hf, rfl, rfl, fun r => by cases r <;> rfl⟩

/-- Settles O40: a reset clears FAULT, every other step of a faulted block holds it, and a command is dropped. -/
theorem onlyResetLeavesTheFaultedState : Obligations.OnlyResetLeavesTheFaultedState := by
  intro s t hf h
  refine ⟨⟨fun hclear => ?_, ?_⟩, ?_⟩
  · by_contra hno
    have hheld := (holdsAs_of_step hf (by simpa using hno) h).fault_eq
    simp [hclear, hf] at hheld
  · rintro ⟨rest, hh⟩
    cases (step_reset hh).symm.trans h
    rfl
  · intro cmd dataIn rest hh
    cases (step_of_fault hh hf).symm.trans h
    rfl

end Sys2Proof.Machine

/-! # Proofs: what a reset clears, and nothing else (70_reset_and_hazards.md R180) -/

namespace Sys2Proof.Machine

/-! ## Written bits only rise between resets (10_state.md R24) -/

@[simp] theorem State.written_setBlock (s : State) (b : Block) (r : OpReg) :
    (s.setBlock b).written r = (decide (r = .x) || decide (r = .y) || s.written r) := by
  simp [State.setBlock, Bool.or_assoc, Bool.or_left_comm]

/-- The body of a command's rule clears no written bit. -/
theorem written_performs {i : Instr} {s : State} {r : OpReg} (h : s.written r = true) :
    (performs i s).written r = true := by
  cases i <;> simp [performs, h]

/-- A step without a reset clears no written bit. -/
theorem written_of_step {s t : State} {r : OpReg} (hno : ∀ rest, s.host ≠ .reset :: rest) (h : step s = .next t)
    (hw : s.written r = true) : t.written r = true := by
  match hh : s.host with
  | [] =>
    cases (step_idle hh).symm.trans h
    exact hw
  | .reset :: rest => exact absurd hh (hno rest)
  | .command cmd dataIn :: rest =>
    obtain ⟨-, rfl⟩ | ⟨-, -, rfl⟩ | ⟨-, -, rfl⟩ | ⟨-, -, i, rfl⟩ := step_command_cases hh h
    · simpa using hw
    · simpa using hw
    · simpa using hw
    · exact written_performs (by simpa using hw)

/-- Settles O42: the reset step and the power-up state are read off; any other step raises written bits only, and holds a
faulted block. -/
theorem resetClearsAndNothingElseDoes : Obligations.ResetClearsAndNothingElseDoes := by
  refine ⟨?_, ?_, ?_⟩
  · intro s rest hh
    exact ⟨_, step_reset hh, by simp⟩
  · exact ⟨fun r => by cases r <;> rfl, rfl, rfl, rfl⟩
  · intro s t h hno
    refine ⟨fun hf => ?_, fun r => written_of_step hno h⟩
    obtain ⟨_, _, rfl⟩ := holdsAs_of_step hf hno h
    exact ⟨hf, rfl, rfl⟩

end Sys2Proof.Machine

/-! # Proofs: the legal words and the cipher's algebra

The legal words listed, the rotation as the library's, and the laws by which each cipher function undoes its
counterpart. -/

namespace Sys2Proof

/-! ## The legal words (30_encoding.md R69, section 4) -/

/-- Settles O4: a decoded word is legal, and a legal word decodes. -/
theorem decodesExactlyTheLegalWords : Obligations.DecodesExactlyTheLegalWords :=
  fun _ dataIn => ⟨fun ⟨_, h⟩ => legal_of_decode_ok h, fun h => exists_decode_eq_ok h dataIn⟩

theorem legal_iff_exists_encodeCmd {cmd : Word} : legal cmd = true ↔ ∃ i : Instr, i.wf = true ∧ encodeCmd i = cmd := by
  constructor
  · intro h
    obtain ⟨i, hd⟩ := exists_decode_eq_ok h 0#32
    obtain ⟨hwf, hcmd, -⟩ := decode_eq_ok_iff.1 hd
    exact ⟨i, hwf, hcmd⟩
  · rintro ⟨i, hwf, rfl⟩
    exact (Machine.legal_encodeCmd i).trans hwf

/-- The words of the spec's table, one row per kind of command: LD, RD, the boxes, ROUNDF, ROUNDI, and the last three. -/
def legalWords : List Word := [
  0x001, 0x101, 0x201, 0x401, 0x501, 0x601, 0x701,
  0x002, 0x102, 0x202, 0x402, 0x502, 0x602, 0x702,
  0x010, 0x011,
  0x020, 0x120, 0x220, 0x320, 0x420, 0x520, 0x620, 0x720, 0x820, 0x920,
  0x021, 0x121, 0x221, 0x321, 0x421, 0x521, 0x621, 0x721, 0x821, 0x921,
  0x022, 0x030, 0x031]

theorem legal_of_mem_legalWords : ∀ cmd ∈ legalWords, legal cmd = true := by
  have hall : legalWords.all legal = true := by decide
  exact List.all_eq_true.1 hall

/-- The words that load and read a register are listed, whichever register it is. -/
theorem commandWord_selectorOf_mem_legalWords (sel : OpReg) :
    commandWord (selectorOf sel) 0x01#8 ∈ legalWords ∧ commandWord (selectorOf sel) 0x02#8 ∈ legalWords := by
  cases sel <;> decide

theorem commandWord_step_mem_legalWords : ∀ step : BitVec 4, stepInRange step = true →
    commandWord step 0x20#8 ∈ legalWords ∧ commandWord step 0x21#8 ∈ legalWords := by
  decide

theorem encodeCmd_mem_legalWords {i : Instr} (h : i.wf = true) : encodeCmd i ∈ legalWords := by
  cases i with
  | ld sel dataIn => exact (commandWord_selectorOf_mem_legalWords sel).1
  | rd sel => exact (commandWord_selectorOf_mem_legalWords sel).2
  | roundf step => exact (commandWord_step_mem_legalWords step h).1
  | roundi step => exact (commandWord_step_mem_legalWords step h).2
  | _ => decide

/-- Settles O5: a legal word is the command word of a well-formed instruction, and those are listed. -/
theorem legalWordsAreTheThirtyNine : Obligations.LegalWordsAreTheThirtyNine := by
  intro cmd
  refine ⟨fun h => ?_, legal_of_mem_legalWords cmd⟩
  obtain ⟨i, hwf, rfl⟩ := legal_iff_exists_encodeCmd.1 h
  exact encodeCmd_mem_legalWords hwf

end Sys2Proof

namespace Sys2Proof.Machine

/-! ## Rotation (40_mixing_box.md R80) -/

theorem rotr_eq_rotateRight (v : Word) {n : Nat} (h : n < 32) : rotr v n = v.rotateRight n := by
  rw [rotr, BitVec.rotateRight_def, Nat.mod_eq_of_lt h]

theorem getLsbD_rotr (v : Word) {n i : Nat} (hn : n < 32) (hi : i < 32) :
    (rotr v n).getLsbD i = v.getLsbD ((i + n) % 32) := by
  rw [rotr_eq_rotateRight v hn, BitVec.getLsbD_rotateRight, Nat.mod_eq_of_lt hn]
  by_cases hwrap : i < 32 - n
  · have hmod : (i + n) % 32 = n + i := by omega
    simp [hwrap, hmod]
  · have hmod : (i + n) % 32 = i - (32 - n) := by omega
    simp [hwrap, hi, hmod]

theorem toNat_rotr (v : Word) (n : Nat) :
    (rotr v n).toNat = (v.toNat >>> n ||| v.toNat <<< (32 - n)) % 2 ^ 32 := by
  have hshift : v.toNat >>> n < 2 ^ 32 := (Nat.shiftRight_le _ _).trans_lt v.isLt
  rw [Nat.or_mod_two_pow, Nat.mod_eq_of_lt hshift, rotr, BitVec.toNat_or, BitVec.toNat_ushiftRight,
    BitVec.toNat_shiftLeft]

theorem rotr_31 (v : Word) : rotr v 31 = v.rotateLeft 1 := by
  rw [rotr, BitVec.rotateLeft_def, BitVec.or_comm]

/-- Settles O11: the rotation is the library's, by bits, by value and from the other side. -/
theorem rotationMovesEveryBit : Obligations.RotationMovesEveryBit :=
  fun v n _ _ hn hi => ⟨getLsbD_rotr v hn hi, toNat_rotr v n, rotr_31 v⟩

/-! ## Each function and its counterpart (40_mixing_box.md R83, R84, 41_round_function.md R105, 42_round_schedule.md R123) -/

/-- Settles O13: the inverse box is the composition of its single steps, each one line of the listing. -/
theorem boxInverseIsTheTwelveSteps : Obligations.BoxInverseIsTheTwelveSteps := by
  intro x0 y0 c
  rfl

/-- Settles O14: each step of a box undoes a step of the other. -/
theorem boxesUndoEachOther : Obligations.BoxesUndoEachOther :=
  fun b c => ⟨boxInv_boxFwd b c, boxFwd_boxInv b c⟩

/-- Settles O16: a round is a box and an injection, which both can be undone. -/
theorem roundsUndoEachOther : Obligations.RoundsUndoEachOther :=
  fun rcon k step b _ => ⟨roundInv_roundFwd rcon k step b, roundFwd_roundInv rcon k step b⟩

/-- Settles O18: a schedule is undone round by round. -/
theorem schedulesUndoEachOther : Obligations.SchedulesUndoEachOther :=
  fun rcon k b => ⟨decrypt_encrypt rcon k b, encrypt_decrypt rcon k b⟩

end Sys2Proof.Machine

/-! # Proofs: steps and runs (00_scope.md R14, 20_memory.md R46, 60_exceptions.md R167)

Every step has a next state, a command on the port is always answered, and the answer is DONE exactly as long as the
block does not fault. A step does not look at the host's later actions, so the runs of two lists of actions compose. -/

namespace Sys2Proof.Machine

/-! ## One step -/

/-- Settles O43: a step with an empty port changes nothing, and the port is empty at reset. -/
theorem idleBlockHoldsItsState : Obligations.IdleBlockHoldsItsState :=
  ⟨fun _ h => step_idle h, step_idle rfl⟩

/-- Settles O44: a word that decodes is fetched as its instruction. -/
theorem stepRunsTheDecodedCommand : Obligations.StepRunsTheDecodedCommand :=
  fun _ _ _ _ _ hh hd _ => step_legal hh hd

/-- The answer to the command on the port is DONE, and the block was not faulted, exactly when the block is not faulted
after the step. -/
theorem answer_of_step_command {s t : State} {cmd dataIn : Word} {rest : List HostAction}
    (hh : s.host = .command cmd dataIn :: rest) (h : step s = .next t) :
    ∃ r, t.resp = some r ∧ (t.fault = false ↔ s.fault = false ∧ r.status = .done) := by
  obtain ⟨hf, rfl⟩ | ⟨-, -, rfl⟩ | ⟨-, -, rfl⟩ | ⟨hf, -, i, rfl⟩ := step_command_cases hh h
  · exact ⟨_, rfl, by simp [hf]⟩
  · exact ⟨_, rfl, by simp⟩
  · exact ⟨_, rfl, by simp⟩
  · obtain ⟨d, hresp⟩ := resp_performs i (s.driven rest)
    exact ⟨_, hresp, by simp⟩

/-- Settles O45: each of the four ways a command ends has a next state and a response. -/
theorem everyCommandIsAnswered : Obligations.EveryCommandIsAnswered := by
  refine ⟨exists_step_eq_next, fun s cmd dataIn rest hh => ?_⟩
  obtain ⟨t, ht⟩ := exists_step_eq_next s
  obtain ⟨r, hr, -⟩ := answer_of_step_command hh ht
  exact ⟨t, r, ht, hr, by simp [host_of_step ht, hh]⟩

/-! ## The responses of a run (60_exceptions.md R167) -/

/-- The head of the host's actions, when it sends commands only, is a command, and the rest are commands. -/
theorem command_of_commandsOnly_cons {a : HostAction} {rest : List HostAction} (h : commandsOnly (a :: rest) = true) :
    (∃ cmd dataIn, a = .command cmd dataIn) ∧ commandsOnly rest = true := by
  cases a with
  | command cmd dataIn => exact ⟨⟨cmd, dataIn, rfl⟩, by simpa [commandsOnly] using h⟩
  | reset => simp [commandsOnly] at h

/-- Over a list of commands, from any state: the block ends unfaulted exactly when it began so and answered DONE
throughout. -/
theorem observe_fault_eq_false_iff {actions : List HostAction} {s : State} (hh : s.host = actions)
    (hcmd : commandsOnly actions = true) :
    (observe actions.length s).2.fault = false ↔
      s.fault = false ∧ ∀ r ∈ (observe actions.length s).1, r.status = .done := by
  induction actions generalizing s with
  | nil => simp [observe]
  | cons a rest ih =>
    obtain ⟨⟨cmd, dataIn, rfl⟩, hrest⟩ := command_of_commandsOnly_cons hcmd
    obtain ⟨t, ht⟩ := exists_step_eq_next s
    obtain ⟨r, hr, hanswer⟩ := answer_of_step_command hh ht
    have hlater := ih (s := t) (by rw [host_of_step ht, hh, List.tail_cons]) hrest
    rw [List.length_cons, observe_succ ht, responseOf_command hh, hr, hlater, hanswer]
    simp [and_assoc]

/-- Settles O41: the case of a block that begins unfaulted. -/
theorem allResponsesDoneExactlyWhenNotFaulted : Obligations.AllResponsesDoneExactlyWhenNotFaulted := by
  intro s hf hcmd
  rw [observe_fault_eq_false_iff rfl hcmd]
  simp [hf]

/-! ## Composing runs (20_memory.md R46) -/

/-- A run that ended in a next state goes on from there. -/
theorem run_add_of_next {M : Host.Core} {n : Nat} (m : Nat) {s t : M.State} (h : M.run n s = .next t) :
    M.run (n + m) s = M.run m t := by
  induction n generalizing s with
  | zero =>
    cases h
    rw [Nat.zero_add]
  | succ n ih =>
    rw [Nat.add_right_comm]
    match hs : M.step s with
    | .next u =>
      rw [run_succ_of_next hs] at h ⊢
      exact ih h
    | .fault r => simp [Host.Core.run, hs] at h
    | .refused r => simp [Host.Core.run, hs] at h

@[simp] theorem State.driven_driven (s : State) (l m : List HostAction) : (s.driven l).driven m = s.driven m := rfl

theorem State.driven_host (s : State) : s.driven s.host = s := rfl

/-- No update a command makes reads what the host does later. -/
theorem keepsWhatIsWritten_driven (l : List HostAction) : KeepsWhatIsWritten (State.driven · l) where
  fault _ := rfl
  written s r := s.written_driven l r
  reg s r _ := s.reg_driven l r
  raiseFault _ _ _ := rfl
  respond _ _ _ := rfl
  setReg _ n _ := by cases n <;> rfl

theorem State.rejectIllegal_driven (s : State) (l : List HostAction) (cmd : Word) :
    (s.driven l).rejectIllegal cmd = (s.rejectIllegal cmd).driven l := by
  cases h : s.fault
  · rw [State.rejectIllegal_of_not_fault h, State.rejectIllegal_of_not_fault (s := s.driven l) h]
    rfl
  · rw [State.rejectIllegal_of_fault h, State.rejectIllegal_of_fault (s := s.driven l) h]
    rfl

/-- A step takes one action of the host and does not look at the later ones. -/
theorem step_driven_cons {s t : State} {a : HostAction} {l : List HostAction} (h : step (s.driven (a :: l)) = .next t)
    (m : List HostAction) : step (s.driven (a :: m)) = .next (t.driven m) := by
  cases a with
  | reset =>
    cases (step_reset (s.host_driven _)).symm.trans h
    exact step_reset (s.host_driven _)
  | command cmd dataIn =>
    match hd : decode cmd dataIn with
    | .error e =>
      cases (step_illegal (s.host_driven _) hd).symm.trans h
      rw [step_illegal (s.host_driven _) hd, ← State.rejectIllegal_driven]
      rfl
    | .ok i =>
      rw [step_legal (s.host_driven _) hd] at h ⊢
      exact (keepsWhatIsWritten_driven m).exec_comm (s := s.driven l) (fun _ _ => rfl) h

/-- A run over a list of actions does not look at what the host does after them. -/
theorem run_driven_append {a : List HostAction} {s t : State} (h : core.run a.length (s.driven a) = .next t)
    (b : List HostAction) : core.run a.length (s.driven (a ++ b)) = .next (t.driven b) := by
  induction a generalizing s with
  | nil =>
    cases h
    rfl
  | cons act later ih =>
    obtain ⟨u, hu⟩ := exists_step_eq_next (s.driven (act :: later))
    have hhost : u.driven later = u := by
      have hlater : u.host = later := host_of_step hu
      rw [← hlater, State.driven_host]
    rw [List.length_cons, core_run_succ hu, ← hhost] at h
    rw [List.length_cons, List.cons_append, core_run_succ (step_driven_cons hu (later ++ b)), ih h]

/-- Settles O46: the run over the first list reaches `t` with the second list still to come, and goes on from there. -/
theorem actionSequencesCompose : Obligations.ActionSequencesCompose :=
  fun _ b _ _ h => run_add_of_next (M := core) b.length (run_driven_append h b)

end Sys2Proof.Machine

/-! # Proofs: sequences of instructions (42_round_schedule.md R126, 43_host_transfer.md R143)

When each of a list of instructions finds its reads written, the run that sends them performs them one after another.
The split schedules and the host's procedure are such runs. -/

namespace Sys2Proof.Machine

/-! ## Performing a list of instructions -/

/-- The state after the rules of these instructions, in order. -/
def performAll (is : List Instr) (s : State) : State := is.foldl (fun t i => performs i t) s

/-- The responses of these instructions, in order. -/
def answers : List Instr → State → List Response
  | [], _ => []
  | i :: is, s => (performs i s).resp.toList ++ answers is (performs i s)

/-- Every one of these instructions completes, each from the state the ones before it leave. -/
def Completes : List Instr → State → Prop
  | [], _ => True
  | i :: is, s => i.wf = true ∧ s.ready (readSet i) = true ∧ Completes is (performs i s)

theorem performAll_cons (i : Instr) (is : List Instr) (s : State) :
    performAll (i :: is) s = performAll is (performs i s) := rfl

theorem rcon_performAll (is : List Instr) (s : State) : (performAll is s).rcon = s.rcon := by
  induction is generalizing s with
  | nil => rfl
  | cons i is ih => rw [performAll_cons, ih, rcon_performs]

theorem fault_performAll (is : List Instr) (s : State) : (performAll is s).fault = s.fault := by
  induction is generalizing s with
  | nil => rfl
  | cons i is ih => rw [performAll_cons, ih, fault_performs]

theorem answers_append (is js : List Instr) (s : State) :
    answers (is ++ js) s = answers is s ++ answers js (performAll is s) := by
  induction is generalizing s with
  | nil => rfl
  | cons i is ih => simp [answers, performAll_cons, ih]

theorem completes_append {is js : List Instr} {s : State} (his : Completes is s)
    (hjs : Completes js (performAll is s)) : Completes (is ++ js) s := by
  induction is generalizing s with
  | nil => exact hjs
  | cons i is ih =>
    obtain ⟨hwf, hready, hlater⟩ := his
    exact ⟨hwf, hready, ih hlater hjs⟩

theorem State.ready_of_subset {s : State} {reads reads' : List OpReg} (hs : s.ready reads = true)
    (hsub : reads' ⊆ reads) : s.ready reads' = true := by
  obtain ⟨hf, hw⟩ := State.ready_iff.1 hs
  exact State.ready_iff.2 ⟨hf, List.all_eq_true.2 fun r hr => List.all_eq_true.1 hw r (hsub hr)⟩

theorem State.ready_performs {s : State} {reads : List OpReg} (hs : s.ready reads = true) (i : Instr) :
    (performs i s).ready reads = true := by
  obtain ⟨hf, hw⟩ := State.ready_iff.1 hs
  refine State.ready_iff.2 ⟨(fault_performs i s).trans hf, List.all_eq_true.2 fun r hr => ?_⟩
  exact written_performs (List.all_eq_true.1 hw r hr)

/-- Instructions that read only registers written beforehand all complete, since no command clears a written bit. -/
theorem completes_of_ready {is : List Instr} {reads : List OpReg} {s : State}
    (his : ∀ i ∈ is, i.wf = true ∧ readSet i ⊆ reads) (hs : s.ready reads = true) : Completes is s := by
  induction is generalizing s with
  | nil => trivial
  | cons i is ih =>
    obtain ⟨⟨hwf, hsub⟩, hlater⟩ := List.forall_mem_cons.1 his
    exact ⟨hwf, State.ready_of_subset hs hsub, ih hlater (State.ready_performs hs i)⟩

/-! ## The run that sends a list of instructions -/

theorem sendAll_cons (i : Instr) (is : List Instr) : sendAll (i :: is) = sendInstr i :: sendAll is := rfl

theorem sendAll_append (is js : List Instr) : sendAll (is ++ js) = sendAll is ++ sendAll js := List.map_append

theorem step_sendInstr {i : Instr} {s : State} (hwf : i.wf = true) (hs : s.ready (readSet i) = true)
    (rest : List HostAction) : step (s.driven (sendInstr i :: rest)) = .next ((performs i s).driven rest) := by
  obtain ⟨hf, hw⟩ := State.ready_iff.1 hs
  obtain ⟨hd, -⟩ := decodeOfEncodeIsIdentity i hwf
  rw [sendInstr, step_of_ready (s.host_driven _) hf hd (by simpa using hw), State.driven_driven, performs_driven]

theorem run_sendAll {is : List Instr} {s : State} (h : Completes is s) (rest : List HostAction) :
    core.run is.length (s.driven (sendAll is ++ rest)) = .next ((performAll is s).driven rest) := by
  induction is generalizing s with
  | nil => rfl
  | cons i is ih =>
    obtain ⟨hwf, hready, hlater⟩ := h
    exact (core_run_succ (step_sendInstr hwf hready _)).trans (ih hlater)

theorem observe_sendAll {is : List Instr} {s : State} (h : Completes is s) :
    (observe is.length (s.driven (sendAll is))).1 = answers is s := by
  induction is generalizing s with
  | nil => rfl
  | cons i is ih =>
    obtain ⟨hwf, hready, hlater⟩ := h
    rw [List.length_cons, sendAll_cons, observe_succ (step_sendInstr hwf hready _), responseOf_command rfl, ih hlater]
    rfl

/-! ## A list of transforming commands -/

/-- The block after these commands when they start from the block `b` and the other registers of `s`. -/
def transformAll (is : List Instr) (s : State) (b : Block) : Block :=
  is.foldl (fun b i => transformed i (s.setBlock b)) b

theorem transformed_setBlock_block (i : Instr) (s : State) : transformed i (s.setBlock s.block) = transformed i s := by
  cases i <;> rfl

/-- Performed one after another, transforming commands only hand on the block. -/
theorem performAll_setBlock {is : List Instr} (his : ∀ i ∈ is, transforms i = true) (s : State) (b : Block) :
    performAll is ((s.setBlock b).respond .done none) = (s.setBlock (transformAll is s b)).respond .done none := by
  induction is generalizing b with
  | nil => rfl
  | cons i is ih =>
    obtain ⟨hi, hlater⟩ := List.forall_mem_cons.1 his
    rw [performAll_cons, performs_of_transforms hi, transformed_respond]
    exact ih hlater _

theorem performAll_of_transforms {is : List Instr} (hne : is ≠ []) (his : ∀ i ∈ is, transforms i = true) (s : State) :
    performAll is s = (s.setBlock (transformAll is s s.block)).respond .done none := by
  match is with
  | [] => exact absurd rfl hne
  | i :: is =>
    obtain ⟨hi, hlater⟩ := List.forall_mem_cons.1 his
    rw [performAll_cons, performs_of_transforms hi, State.done_eq, performAll_setBlock hlater,
      ← transformed_setBlock_block]
    rfl

/-! ## The schedules, split into round commands (42_round_schedule.md R126) -/

theorem toNat_roundSteps : roundSteps.map BitVec.toNat = List.range Config.rounds := by
  decide

theorem transformAll_encRounds (s : State) : transformAll encRounds s s.block = transformed .enc s := by
  simp only [transformAll, encRounds, List.foldl_append, List.foldl_map, List.foldl_cons, List.foldl_nil, transformed,
    encrypt, ← toNat_roundSteps, State.rcon_setBlock, State.key_setBlock, State.block_setBlock]

theorem transformAll_decRounds (s : State) : transformAll decRounds s s.block = transformed .dec s := by
  simp only [transformAll, decRounds, List.foldl_map, List.foldl_cons, transformed, decrypt, ← toNat_roundSteps,
    ← List.map_reverse, State.rcon_setBlock, State.key_setBlock, State.block_setBlock]

/-- The commands `rounds` do in eleven steps what `whole` does in one, from the registers `whole` reads, and `whole` is
not one of them. -/
structure IsSplitOf (rounds : List Instr) (whole : Instr) : Prop where
  length_eq : rounds.length = 11
  parts : ∀ i ∈ rounds, i.wf = true ∧ readSet i ⊆ readSet whole
  transforms_parts : ∀ i ∈ rounds, transforms i = true
  wf_whole : whole.wf = true
  transforms_whole : transforms whole = true
  readSet_whole : readSet whole = [.x, .y, .k0, .k1, .k2, .k3]
  word_not_mem : encodeCmd whole ∉ rounds.map encodeCmd
  block_eq : ∀ s : State, transformAll rounds s s.block = transformed whole s

theorem isSplitOf_enc : IsSplitOf encRounds .enc where
  length_eq := rfl
  parts := by decide
  transforms_parts := by decide
  wf_whole := rfl
  transforms_whole := rfl
  readSet_whole := rfl
  word_not_mem := by decide
  block_eq := transformAll_encRounds

theorem isSplitOf_dec : IsSplitOf decRounds .dec where
  length_eq := rfl
  parts := by decide
  transforms_parts := by decide
  wf_whole := rfl
  transforms_whole := rfl
  readSet_whole := rfl
  word_not_mem := by decide
  block_eq := transformAll_decRounds

namespace IsSplitOf

variable {rounds : List Instr} {whole : Instr} {s : State}

theorem performAll_eq (h : IsSplitOf rounds whole) (s : State) : performAll rounds s = performs whole s := by
  have hne : rounds ≠ [] := List.ne_nil_of_length_eq_add_one h.length_eq
  rw [performAll_of_transforms hne h.transforms_parts, h.block_eq, performs_of_transforms h.transforms_whole,
    State.done_eq]

theorem run_eq (h : IsSplitOf rounds whole) (hs : s.ready (readSet whole) = true) (rest : List HostAction) :
    core.run 11 (s.driven (sendAll rounds ++ rest)) = core.run 1 (s.driven (sendInstr whole :: rest)) := by
  have hrounds := run_sendAll (completes_of_ready h.parts hs) rest
  have hwhole := run_sendAll (is := [whole]) ⟨h.wf_whole, hs, trivial⟩ rest
  rw [h.length_eq, h.performAll_eq] at hrounds
  exact hrounds.trans hwhole.symm

/-- After any number of the commands the last response is DONE: a first part of the list is a list of transforming
commands too. -/
theorem exists_run_done (h : IsSplitOf rounds whole) (hs : s.ready (readSet whole) = true) (rest : List HostAction)
    {n : Nat} (hn : n < 11) : ∃ t : State,
      core.run (n + 1) (s.driven (sendAll rounds ++ rest)) = .next t ∧ t.resp = some ⟨.done, none⟩ := by
  have hlen : (rounds.take (n + 1)).length = n + 1 := by
    rw [List.length_take, h.length_eq]
    omega
  have hparts : ∀ i ∈ rounds.take (n + 1), i.wf = true ∧ readSet i ⊆ readSet whole :=
    fun i hi => h.parts i (List.mem_of_mem_take hi)
  have hrun := run_sendAll (completes_of_ready hparts hs) (sendAll (rounds.drop (n + 1)) ++ rest)
  rw [hlen, ← List.append_assoc, ← sendAll_append, List.take_append_drop,
    performAll_of_transforms (List.ne_nil_of_length_eq_add_one hlen)
      fun i hi => h.transforms_parts i (List.mem_of_mem_take hi)] at hrun
  exact ⟨_, hrun, rfl⟩

end IsSplitOf

/-! ## Which command a faulted block has recorded -/

/-- The block has not faulted, or the word it recorded is one of these. -/
def State.FaultedIn (words : List Word) (s : State) : Prop := s.fault = true → s.fcmd ∈ words

theorem faultedIn_of_step {words : List Word} {s t : State} {cmd dataIn : Word} {rest : List HostAction}
    (hs : s.FaultedIn words) (hh : s.host = .command cmd dataIn :: rest) (hmem : cmd ∈ words) (h : step s = .next t) :
    t.FaultedIn words := by
  intro hft
  obtain ⟨hf, rfl⟩ | ⟨-, -, rfl⟩ | ⟨-, -, rfl⟩ | ⟨hf, -, i, rfl⟩ := step_command_cases hh h
  · exact hs hf
  · exact hmem
  · exact hmem
  · simp [hf] at hft

theorem faultedIn_of_run {words : List Word} {is : List Instr} {rest : List HostAction} {s u : State}
    (hs : s.FaultedIn words) (his : ∀ i ∈ is, encodeCmd i ∈ words) (hh : s.host = sendAll is ++ rest)
    (h : core.run is.length s = .next u) : u.FaultedIn words := by
  induction is generalizing s with
  | nil =>
    cases (core_run_zero s).symm.trans h
    exact hs
  | cons i is ih =>
    obtain ⟨hi, hlater⟩ := List.forall_mem_cons.1 his
    obtain ⟨t, ht⟩ := exists_step_eq_next s
    rw [List.length_cons, core_run_succ ht] at h
    have hhost : t.host = sendAll is ++ rest := by
      rw [host_of_step ht, hh, sendAll_cons, List.cons_append, List.tail_cons]
    exact ih (faultedIn_of_step hs hh hi ht) hlater hhost h

/-- From a state in which the whole command faults, it records its own word, which no round command can. -/
theorem IsSplitOf.run_ne {rounds : List Instr} {whole : Instr} {s : State} (h : IsSplitOf rounds whole)
    (hf : s.fault = false) (hw : s.allWritten (readSet whole) = false) (rest : List HostAction) :
    core.run 11 (s.driven (sendAll rounds ++ rest)) ≠ core.run 1 (s.driven (sendInstr whole :: rest)) := by
  intro heq
  obtain ⟨hd, -⟩ := decodeOfEncodeIsIdentity whole h.wf_whole
  have hstep := step_of_unwritten (s.host_driven (sendInstr whole :: rest)) hf hd (by simpa using hw)
  rw [core_run_succ hstep, core_run_zero, ← h.length_eq] at heq
  have hstart : (s.driven (sendAll rounds ++ rest)).FaultedIn (rounds.map encodeCmd) :=
    fun hfault => absurd (hf.symm.trans hfault) Bool.false_ne_true
  have hend := faultedIn_of_run hstart (fun i hi => List.mem_map_of_mem hi) (s.host_driven _) heq
  exact h.word_not_mem (hend rfl)

/-- Settles O30: with the registers written, both runs leave what the whole command's rule leaves; with a key register
unwritten, the fault is recorded with another word. -/
theorem roundCommandsEqualTheSchedule : Obligations.RoundCommandsEqualTheSchedule := by
  intro rounds whole hsplit
  have h : IsSplitOf rounds whole := by
    obtain ⟨rfl, rfl⟩ | ⟨rfl, rfl⟩ := hsplit
    · exact isSplitOf_enc
    · exact isSplitOf_dec
  refine ⟨fun s rest hs => ?_, fun s rest hs hk => ?_⟩
  · rw [← h.readSet_whole] at hs
    exact ⟨h.run_eq hs rest, fun n hn => h.exists_run_done hs rest hn⟩
  · obtain ⟨hf, -⟩ := State.ready_iff.1 hs
    obtain ⟨r, hr, hwr⟩ := State.allWritten_eq_false_iff.1 hk
    refine h.run_ne hf (State.allWritten_eq_false_iff.2 ⟨r, ?_, hwr⟩) rest
    rw [h.readSet_whole]
    exact List.mem_append_right [.x, .y] hr

/-! ## The host's procedure for one call (43_host_transfer.md R143) -/

/-- The loads of one call: the key, then the block. -/
def loads (k : Key) (b : Block) : List Instr := ldKey k ++ ldBlock b

theorem key_performAll_loads (k : Key) (b : Block) (s : State) : (performAll (loads k b) s).key = k := by
  ext i hi : 1
  match i with
  | 0 => rfl
  | 1 => rfl
  | 2 => rfl
  | 3 => rfl

theorem block_performAll_loads (k : Key) (b : Block) (s : State) : (performAll (loads k b) s).block = b := rfl

theorem transformed_enc_loads (k : Key) (b : Block) (s : State) :
    transformed .enc (performAll (loads k b) s) = encrypt s.rcon k b := by
  rw [transformed, rcon_performAll, key_performAll_loads, block_performAll_loads]

theorem transformed_dec_loads (k : Key) (b : Block) (s : State) :
    transformed .dec (performAll (loads k b) s) = decrypt s.rcon k b := by
  rw [transformed, rcon_performAll, key_performAll_loads, block_performAll_loads]

theorem completes_loads {s : State} (hf : s.fault = false) (k : Key) (b : Block) : Completes (loads k b) s := by
  refine completes_of_ready (reads := []) ?_ (State.ready_iff.2 ⟨hf, rfl⟩)
  simp [loads, ldKey, ldBlock, Instr.wf, readSet]

theorem ready_performAll_loads {s : State} (hf : s.fault = false) (k : Key) (b : Block) :
    (performAll (loads k b) s).ready (readSet .enc) = true :=
  State.ready_iff.2 ⟨(fault_performAll _ s).trans hf, rfl⟩

theorem answers_loads (k : Key) (b : Block) (s : State) : answers (loads k b) s = List.replicate 6 ⟨.done, none⟩ := rfl

/-- A transforming command is answered DONE, and the two RDs after it answer the words it computed. -/
theorem answers_transform_rd {i : Instr} (hi : transforms i = true) (s : State) :
    answers [i, .rd .x, .rd .y] s =
      [⟨.done, none⟩, ⟨.done, some (transformed i s).x⟩, ⟨.done, some (transformed i s).y⟩] := by
  simp only [answers, performs_of_transforms hi]
  rfl

theorem observe_call {s : State} (hf : s.fault = false) (k : Key) (b : Block) {i : Instr} (hwf : i.wf = true)
    (hi : transforms i = true) (hreads : readSet i = readSet .enc) :
    (observe 9 (s.driven (sendAll (loads k b ++ [i, .rd .x, .rd .y])))).1 =
      List.replicate 7 ⟨.done, none⟩ ++
        [⟨.done, some (transformed i (performAll (loads k b) s)).x⟩,
          ⟨.done, some (transformed i (performAll (loads k b) s)).y⟩] := by
  have hcall : ∀ j ∈ [i, .rd .x, .rd .y], j.wf = true ∧ readSet j ⊆ readSet .enc :=
    List.forall_mem_cons.2 ⟨⟨hwf, hreads ▸ List.Subset.refl _⟩, by decide⟩
  have hcompletes := completes_append (completes_loads hf k b)
    (completes_of_ready hcall (ready_performAll_loads hf k b))
  refine (observe_sendAll hcompletes).trans ?_
  rw [answers_append, answers_loads, answers_transform_rd hi]
  rfl

/-- Settles O52: the loads put the key and the block in place, and the two reads answer what the cipher computes of
them. -/
theorem hostProcedureReturnsTheCipherWords : Obligations.HostProcedureReturnsTheCipherWords := by
  intro s k b hf
  rw [← transformed_enc_loads, ← transformed_dec_loads]
  exact ⟨observe_call hf k b (i := .enc) rfl rfl rfl, observe_call hf k b (i := .dec) rfl rfl rfl⟩

/-! ## The three forms of a block (43_host_transfer.md R148) -/

/-- The bits above a byte, put before that byte. -/
theorem extractLsb'_append_byte {w : Nat} (b : BitVec w) (n len : Nat) :
    b.extractLsb' (n + 8) len ++ b.extractLsb' n 8 = b.extractLsb' n (len + 8) :=
  BitVec.extractLsb'_append_extractLsb'_eq_extractLsb' rfl

/-- Four bytes in a row of an integer make the word that stands there. -/
theorem wordOfBytes_extractLsb' {w : Nat} (b : BitVec w) (n : Nat) :
    wordOfBytes (b.extractLsb' n 8) (b.extractLsb' (n + 8) 8) (b.extractLsb' (n + 16) 8) (b.extractLsb' (n + 24) 8) =
      b.extractLsb' n 32 := by
  unfold wordOfBytes
  rw [extractLsb'_append_byte b (n + 16), extractLsb'_append_byte b (n + 8), extractLsb'_append_byte b n]

theorem blockOfBytes_extractLsb' (b : BitVec 64) :
    blockOfBytes (Vector.ofFn fun i : Fin 8 => b.extractLsb' (8 * i) 8) = blockOfInt b := by
  simpa [blockOfBytes, blockOfInt] using ⟨wordOfBytes_extractLsb' b 0, wordOfBytes_extractLsb' b 32⟩

theorem intOfBlock_extractLsb'_low (b : Block) {start len : Nat} (h : start + len ≤ 32) :
    (intOfBlock b).extractLsb' start len = b.x.extractLsb' start len :=
  BitVec.extractLsb'_append_eq_of_add_le h

theorem intOfBlock_extractLsb'_high (b : Block) (start len : Nat) :
    (intOfBlock b).extractLsb' (32 + start) len = b.y.extractLsb' start len := by
  rw [intOfBlock, BitVec.extractLsb'_append_eq_of_le (Nat.le_add_right 32 start), Nat.add_sub_cancel_left]

theorem getElem_bytesOfBlock (b : Block) (i : Nat) (h : i < 8) :
    (bytesOfBlock b)[i] = (intOfBlock b).extractLsb' (8 * i) 8 := by
  by_cases hx : i < 4
  · rw [getElem_bytesOfBlock_x b i hx, intOfBlock_extractLsb'_low b (by omega)]
  · obtain ⟨j, rfl⟩ := Nat.exists_eq_add_of_le (Nat.le_of_not_lt hx)
    rw [getElem_bytesOfBlock_y b j (by omega), Nat.mul_add, intOfBlock_extractLsb'_high]

/-- Settles O51: every form is a cut of the 64-bit integer into words or bytes. -/
theorem representationsAgree : Obligations.RepresentationsAgree := by
  refine ⟨fun b => ⟨rfl, blockOfBytes_extractLsb' b⟩, fun b => ⟨?_, ?_⟩, getElem_bytesOfBlock⟩
  · exact BitVec.extractLsb'_eq_self.symm.trans (intOfBlock_extractLsb'_low b le_rfl).symm
  · exact BitVec.extractLsb'_eq_self.symm.trans (intOfBlock_extractLsb'_high b 0 32).symm

end Sys2Proof.Machine
